-- ==== Sys2Proof/Word.lean ====
section
/-! DEFINITION. The byte, the 16-bit half word, and the split and join of a 16-bit value
(spec/00_scope.md R13, R14; little-endian order is spec/20_memory.md R63). -/

namespace Sys2Proof

/-- A byte: 8 bits, bit 0 the least significant (R13). -/
abbrev Byte := BitVec 8

/-- A 16-bit field or register. -/
abbrev Half := BitVec 16

/-- `lo8(v) = v[7:0]`, which is also `trunc8(v) = v mod 256` (R14). -/
def lo8 (v : Nat) : Byte := BitVec.ofNat 8 v

/-- `hi8(v) = v[15:8]` (R14). -/
def hi8 (v : Nat) : Byte := BitVec.ofNat 8 (v / 256)

/-- The 16-bit value whose low byte is `lo` and whose high byte is `hi`. -/
def joinBytes (lo hi : Byte) : Half := BitVec.ofNat 16 (lo.toNat + 256 * hi.toNat)

end Sys2Proof
end

