-- ==== Sys2Proof/Config.lean ====
section
/-! DEFINITION. What an engine instance fixes before its reset is released: the revision strap's two
values, the profile record, and the OPEN parameters (spec/00_scope.md R2, R10, R11, R12). The profile
TABLE and the geometry are in Machine/Profile.lean. The constants without a body stand for the parameters
whose value the spec leaves open (log 2): no proof can see what they are. -/

namespace Sys2Proof

/-- `REV`, the revision strap: `0 = LEGACY`, `1 = V4` (spec/10_state.md R21). -/
inductive Rev
  | legacy
  | v4
deriving DecidableEq, Repr

/-- A pin level (R15). -/
inductive Level
  | low
  | high
deriving DecidableEq, Repr

/-- The refresh mode of `REFRESH` and of SET_LUT's operand: `0 = Full`, `1 = Partial` (spec/10_state.md R25). -/
inductive RefreshMode
  | fullRefresh
  | partialRefresh
deriving DecidableEq, Repr

/-- The revision profile's fields (R10). -/
structure Profile where
  supportsLut : Bool
  supportsPartial : Bool
  chromaInverted : Bool
  busyActiveLevel : Level
  usesDuc2 : Bool
  initDuc1 : Bool
deriving DecidableEq, Repr

/-- The OPEN parameters of R11, fixed for the life of an instance (spec/70_reset_and_hazards.md R284). -/
structure Params where
  resetLowUs : Nat
  resetHighUs : Nat
  pollIntervalUs : Nat
  /-- `BUSY_POLL_LIMIT`: `none` is the unbounded wait, `some n` the deadline of `n` busy samples (R12). -/
  busyPollLimit : Option Nat
  deepSleepCode : Byte
  initBorder : Byte
  lutLen : Nat
  lutFull : List Byte
  lutPartial : List Byte
  bgReset : Byte
  bitEnableClock : Fin 8
  bitEnableAnalog : Fin 8
  bitLoadTemperature : Fin 8
  bitLoadLut : Fin 8
  bitTriggerDisplay : Fin 8
  bitDisableAnalog : Fin 8
  bitDisableClock : Fin 8
  errInfoWidth : Nat
deriving DecidableEq, Repr

/-- What R11, R12 and spec/41_encoders.md R168 ask of the parameters: a poll limit of at least 1, both LUTs of
`LUT_LEN ≥ 1` bytes, seven distinct DUC2 bits. -/
def Params.wf (p : Params) : Bool :=
  p.busyPollLimit != some 0
  && decide (1 ≤ p.lutLen) && p.lutFull.length == p.lutLen && p.lutPartial.length == p.lutLen
  && decide [p.bitEnableClock, p.bitEnableAnalog, p.bitLoadTemperature, p.bitLoadLut,
      p.bitTriggerDisplay, p.bitDisableAnalog, p.bitDisableClock].Nodup

/-! The open values. `Config.pollLimitLess` and `Config.lutLenLess` are one less than the parameter, so that the
bound `≥ 1` of R11 holds whatever they are. -/

opaque Config.resetLowUs : Nat
opaque Config.resetHighUs : Nat
opaque Config.pollIntervalUs : Nat
opaque Config.pollLimitLess : Option Nat
opaque Config.deepSleepCode : Byte
opaque Config.lutLenLess : Nat
opaque Config.lutFullByte : Nat → Byte
opaque Config.lutPartialByte : Nat → Byte
opaque Config.errInfoWidth : Nat

/-- The parameters of the instance that `State.reset` describes: the spec's own default where it gives one
(`INIT_BORDER` 0x03, `BG_RESET` 0xFF, the DUC2 bits of R168, log 18), an open constant otherwise (log 2). -/
def Params.atReset : Params where
  resetLowUs := Config.resetLowUs
  resetHighUs := Config.resetHighUs
  pollIntervalUs := Config.pollIntervalUs
  busyPollLimit := Config.pollLimitLess.map (· + 1)
  deepSleepCode := Config.deepSleepCode
  initBorder := 0x03#8
  lutLen := Config.lutLenLess + 1
  lutFull := (List.range (Config.lutLenLess + 1)).map Config.lutFullByte
  lutPartial := (List.range (Config.lutLenLess + 1)).map Config.lutPartialByte
  bgReset := 0xFF#8
  bitEnableClock := 7
  bitEnableAnalog := 6
  bitLoadTemperature := 5
  bitLoadLut := 4
  bitTriggerDisplay := 2
  bitDisableAnalog := 1
  bitDisableClock := 0
  errInfoWidth := Config.errInfoWidth

end Sys2Proof
end

