-- ==== Sys2Proof/Machine/Encoders.lean ====
section
/-! DEFINITION. The configuration encoders of spec/41_encoders.md (R160 to R172): pure functions from naturals and
flags to payload bytes. Inputs out of range are masked, never refused. -/

namespace Sys2Proof.Machine

/-- `BorderWaveform(vbd, fix, gs)`: bits 7:6, 5:4 and 1:0; bits 3:2 are 0 (R160). -/
def borderWaveform (vbd fixLevel gs : Nat) : Byte :=
  BitVec.ofNat 8 ((vbd % 4) * 64 + (fixLevel % 4) * 16 + gs % 4)

/-- One inverted flag: "bit set means 'not this behavior'" (R163). -/
def invertedFlag (b : Bool) : Nat := if b then 0 else 1

/-- `DriverOutput(scan_length, linear, first_g0, increasing)`: the length little-endian, then the three inverted
flags in bits 2, 1 and 0 (R163). -/
def driverOutput (scanLength : Nat) (linear firstG0 increasing : Bool) : List Byte :=
  [lo8 scanLength, hi8 scanLength,
    BitVec.ofNat 8 (invertedFlag increasing + 2 * invertedFlag firstG0 + 4 * invertedFlag linear)]

/-- `DataEntry(id, am)`: the increment mode in bits 1:0, the direction in bit 2 (R165). -/
def dataEntry (incMode direction : Nat) : Byte :=
  BitVec.ofNat 8 (incMode % 4 + 4 * (direction % 2))

/-- The seven actions of display update control 2 (R167). -/
inductive Duc2Action
  | enableClock
  | enableAnalog
  | loadLut
  | loadTemperature
  | triggerDisplay
  | disableAnalog
  | disableClock
deriving DecidableEq, Repr

/-- `DUC2_BIT_<action>` (R168). -/
def duc2Bit (p : Params) : Duc2Action → Fin 8
  | .enableClock => p.bitEnableClock
  | .enableAnalog => p.bitEnableAnalog
  | .loadLut => p.bitLoadLut
  | .loadTemperature => p.bitLoadTemperature
  | .triggerDisplay => p.bitTriggerDisplay
  | .disableAnalog => p.bitDisableAnalog
  | .disableClock => p.bitDisableClock

/-- `Compose(S)`: from 0x00, one bit set per action (R167). -/
def composeDuc2 (p : Params) (actions : List Duc2Action) : Byte :=
  actions.foldl (fun acc a => acc ||| (1#8 <<< (duc2Bit p a).val)) 0x00#8

/-- `S_DISPLAY` (R169). -/
def displayActions : List Duc2Action :=
  [.enableClock, .enableAnalog, .loadLut, .loadTemperature, .triggerDisplay, .disableAnalog, .disableClock]

/-- `S_SLEEP` (R169). -/
def sleepActions : List Duc2Action :=
  [.enableClock, .enableAnalog, .disableAnalog, .disableClock]

/-- The display update control 1 payload, a constant (R170). -/
def duc1Payload : List Byte := [0x80#8, 0x80#8]

/-- The temperature sensor payload: 0x80, the internal sensor (R171). -/
def temperaturePayload : List Byte := [0x80#8]

/-- `LutPayload(mode)` (R172). -/
def lutPayload (p : Params) : RefreshMode → List Byte
  | .fullRefresh => p.lutFull
  | .partialRefresh => p.lutPartial

end Sys2Proof.Machine
end

