-- ==== Sys2Proof/Syntax.lean ====
section
/-! DEFINITION. The instructions: one constructor per row of spec/opcode_table.json. The first sixteen are the
host operations (spec/30_encoding.md R93) with the descriptor fields and buffer streams each of them reads; the
other sixteen are the bus commands the engine emits (R100) with the fields of their payloads (log 19). -/

namespace Sys2Proof

inductive Instr
  -- host operations
  | init
  | sleep
  | setLut (mode : RefreshMode)
  | waitIdle
  | updateFrame (bufA : List Byte)
  | updatePartialFrame (x y w h : Half) (bufA : List Byte)
  | updateColorFrame (bufA bufB : List Byte)
  | updateAchromaticFrame (bufA : List Byte)
  | updateChromaticFrame (bufA : List Byte)
  | displayFrame
  | updateAndDisplayFrame (bufA : List Byte)
  | clearFrame
  | setBackgroundColor (color : Byte)
  | getBackgroundColor
  | getWidth
  | getHeight
  -- bus commands
  | cmdDriverOutputControl (scanLength : Half) (linear firstG0 increasing : Bool)
  | cmdDeepSleepMode (code : Byte)
  | cmdDataEntryMode (incMode : BitVec 2) (yMajor : Bool)
  | cmdSwReset
  | cmdTemperatureSensor
  | cmdMasterActivation
  | cmdDisplayUpdateControl1
  | cmdDisplayUpdateControl2 (flags : Byte)
  | cmdWriteRamBw (bytes : List Byte)
  | cmdWriteRamRed (bytes : List Byte)
  | cmdWriteLut (bytes : List Byte)
  | cmdBorderWaveform (border : Byte)
  | cmdSetRamXWindow (xs xe : Byte)
  | cmdSetRamYWindow (ys ye : Half)
  | cmdSetRamXCounter (x : Byte)
  | cmdSetRamYCounter (y : Half)
deriving DecidableEq, Repr

/-- True of the sixteen bus commands, false of the sixteen host operations (R3). -/
def Instr.isBus : Instr → Bool
  | .init | .sleep | .setLut _ | .waitIdle | .updateFrame _ | .updatePartialFrame _ _ _ _ _ => false
  | .updateColorFrame _ _ | .updateAchromaticFrame _ | .updateChromaticFrame _ | .displayFrame => false
  | .updateAndDisplayFrame _ | .clearFrame | .setBackgroundColor _ | .getBackgroundColor => false
  | .getWidth | .getHeight => false
  | .cmdDriverOutputControl _ _ _ _ | .cmdDeepSleepMode _ | .cmdDataEntryMode _ _ | .cmdSwReset => true
  | .cmdTemperatureSensor | .cmdMasterActivation | .cmdDisplayUpdateControl1 => true
  | .cmdDisplayUpdateControl2 _ | .cmdWriteRamBw _ | .cmdWriteRamRed _ | .cmdWriteLut _ => true
  | .cmdBorderWaveform _ | .cmdSetRamXWindow _ _ | .cmdSetRamYWindow _ _ => true
  | .cmdSetRamXCounter _ | .cmdSetRamYCounter _ => true

/-- The pseudo-instruction `NEW` (R99): another name of INIT. -/
def Instr.new : Instr := .init

/-- The pseudo-instruction `WAKE_UP` (R99): "re-invoke `init`". -/
def Instr.wakeUp : Instr := .init

end Sys2Proof
end

