-- ==== Sys2Proof/WellFormed.lean ====
section
/-! DEFINITION. Which instruction terms an encoding can carry. Every numeric operand is bounded by its type; what
is left is the length of a byte string: a buffer's length is a 16-bit LEN field (spec/30_encoding.md R90, R92), and a
data frame is at least one byte long (R103, spec/40_framer.md R132). -/

namespace Sys2Proof

/-- A buffer stream whose length a 16-bit LEN field can declare (R90). -/
def bufferFits (buf : List Byte) : Bool := decide (buf.length < 65536)

/-- A payload that makes a data frame of at least one byte (R103). -/
def payloadFits (bytes : List Byte) : Bool := decide (1 ≤ bytes.length)

/-- The instruction has an encoding. -/
def Instr.wellFormed : Instr → Bool
  | .updateFrame a => bufferFits a
  | .updatePartialFrame _ _ _ _ a => bufferFits a
  | .updateColorFrame a b => bufferFits a && bufferFits b
  | .updateAchromaticFrame a => bufferFits a
  | .updateChromaticFrame a => bufferFits a
  | .updateAndDisplayFrame a => bufferFits a
  | .cmdWriteRamBw s => payloadFits s
  | .cmdWriteRamRed s => payloadFits s
  | .cmdWriteLut s => payloadFits s
  | .init | .sleep | .setLut _ | .waitIdle | .displayFrame | .clearFrame => true
  | .setBackgroundColor _ | .getBackgroundColor | .getWidth | .getHeight => true
  | .cmdDriverOutputControl _ _ _ _ | .cmdDeepSleepMode _ | .cmdDataEntryMode _ _ | .cmdSwReset => true
  | .cmdTemperatureSensor | .cmdMasterActivation | .cmdDisplayUpdateControl1 => true
  | .cmdDisplayUpdateControl2 _ | .cmdBorderWaveform _ | .cmdSetRamXWindow _ _ => true
  | .cmdSetRamYWindow _ _ | .cmdSetRamXCounter _ | .cmdSetRamYCounter _ => true

end Sys2Proof
end

