-- ==== Sys2Proof/Decode.lean ====
section
/-! DEFINITION. The two decoders and the encoder. A host request is a 16-byte descriptor and its buffer streams
(spec/30_encoding.md R90 to R97). A bus command is the opcode byte of a command frame and the bytes of the data frame
that follows it, whose end is chip-select rising (R100 to R103). The two opcode spaces are separate (log 10). -/

namespace Sys2Proof

/-- Why bytes are no instruction. -/
inductive DecodeError
  /-- A host request of fewer than 16 bytes (R97). -/
  | shortDescriptor
  /-- Fewer stream bytes than LEN_A and LEN_B declare (R92). -/
  | shortStream
  /-- An OP value that R93 does not assign (R96). -/
  | illegalOp (op : Byte)
  /-- A bus command without its opcode byte (R103). -/
  | emptyFrame
  /-- A command byte outside R100's table (R101). -/
  | unknownCommand (op : Byte)
  /-- A payload of another length, or with other fixed bits, than R100 and 40_framer.md give the command. -/
  | badPayload (op : Byte)
deriving DecidableEq, Repr

/-- The descriptor's fields (R90). -/
structure Descriptor where
  op : Byte
  imm8 : Byte
  rsvd : Half
  x : Half
  y : Half
  w : Half
  h : Half
  lenA : Half
  lenB : Half
deriving DecidableEq, Repr

/-- Read the 16 descriptor bytes; byte k carries `D[8k+7:8k]` (R97). The rest is the stream bytes. -/
def readDescriptor : List Byte → Option (Descriptor × List Byte)
  | b0 :: b1 :: b2 :: b3 :: b4 :: b5 :: b6 :: b7 :: b8 :: b9 :: b10 :: b11 :: b12 :: b13 :: b14 :: b15 :: rest =>
    some ({ op := b0, imm8 := b1, rsvd := joinBytes b2 b3, x := joinBytes b4 b5, y := joinBytes b6 b7,
            w := joinBytes b8 b9, h := joinBytes b10 b11, lenA := joinBytes b12 b13, lenB := joinBytes b14 b15 }, rest)
  | _ => none

/-- Take a stream of `n` bytes off the front (R92). -/
def takeStream (n : Nat) (bytes : List Byte) : Except DecodeError (List Byte × List Byte) :=
  if bytes.length < n then .error .shortStream else .ok (bytes.take n, bytes.drop n)

/-- An operation that takes one buffer reads stream A and ignores LEN_B (R92). -/
def withStreamA (d : Descriptor) (stream : List Byte) (mk : List Byte → Instr) :
    Except DecodeError (Instr × List Byte) :=
  match takeStream d.lenA.toNat stream with
  | .error e => .error e
  | .ok (a, rest) => .ok (mk a, rest)

/-- An operation that takes two buffers reads stream A and then stream B (R92). -/
def withStreamsAB (d : Descriptor) (stream : List Byte) (mk : List Byte → List Byte → Instr) :
    Except DecodeError (Instr × List Byte) :=
  match takeStream d.lenA.toNat stream with
  | .error e => .error e
  | .ok (a, more) =>
    match takeStream d.lenB.toNat more with
    | .error e => .error e
    | .ok (b, rest) => .ok (mk a b, rest)

/-- SET_LUT's mode is `IMM8[0]`: 0 = Full, 1 = Partial (R91). -/
def lutModeOf (imm8 : Byte) : RefreshMode :=
  if imm8.toNat % 2 = 1 then .partialRefresh else .fullRefresh

/-- Decode selects an operation by OP alone, and a field that R93 does not list for it is ignored (R94). -/
def decodeDescriptor (d : Descriptor) (stream : List Byte) : Except DecodeError (Instr × List Byte) :=
  match d.op.toNat with
  | 0x01 => .ok (.init, stream)
  | 0x02 => .ok (.sleep, stream)
  | 0x03 => .ok (.setLut (lutModeOf d.imm8), stream)
  | 0x04 => .ok (.waitIdle, stream)
  | 0x10 => withStreamA d stream .updateFrame
  | 0x11 => withStreamA d stream (.updatePartialFrame d.x d.y d.w d.h)
  | 0x12 => withStreamsAB d stream .updateColorFrame
  | 0x13 => withStreamA d stream .updateAchromaticFrame
  | 0x14 => withStreamA d stream .updateChromaticFrame
  | 0x18 => .ok (.displayFrame, stream)
  | 0x19 => withStreamA d stream .updateAndDisplayFrame
  | 0x1A => .ok (.clearFrame, stream)
  | 0x20 => .ok (.setBackgroundColor d.imm8, stream)
  | 0x21 => .ok (.getBackgroundColor, stream)
  | 0x22 => .ok (.getWidth, stream)
  | 0x23 => .ok (.getHeight, stream)
  | _ => .error (.illegalOp d.op)

/-- Decode a host request: the operation with its operands, and the bytes after the request's end (R97). -/
def decodeRequest (bytes : List Byte) : Except DecodeError (Instr × List Byte) :=
  match readDescriptor bytes with
  | none => .error .shortDescriptor
  | some (d, stream) => decodeDescriptor d stream

/-- The payload of `0x01`: the three inverted flags, bits 7:3 zero (41_encoders.md R163). -/
def decodeDriverOutput (a b flags : Byte) : Except DecodeError Instr :=
  if flags.toNat < 8 then
    .ok (.cmdDriverOutputControl (joinBytes a b)
      (decide (flags.toNat / 4 % 2 = 0)) (decide (flags.toNat / 2 % 2 = 0)) (decide (flags.toNat % 2 = 0)))
  else .error (.badPayload 0x01#8)

/-- The payload of `0x11`: increment mode and direction, bits 7:3 zero (41_encoders.md R165). -/
def decodeDataEntry (b : Byte) : Except DecodeError Instr :=
  if b.toNat < 8 then .ok (.cmdDataEntryMode (BitVec.ofNat 2 b.toNat) (decide (b.toNat / 4 % 2 = 1)))
  else .error (.badPayload 0x11#8)

/-- The payload of a command that carries a byte string of at least one byte (R102, R103). -/
def decodeString (op : Byte) (mk : List Byte → Instr) (payload : List Byte) : Except DecodeError Instr :=
  if payload = [] then .error (.badPayload op) else .ok (mk payload)

/-- A command without a payload (R100). -/
def noPayload (op : Byte) (c : Instr) : List Byte → Except DecodeError Instr
  | [] => .ok c
  | _ => .error (.badPayload op)

/-- A payload of one byte (R100). -/
def oneByte (op : Byte) (read : Byte → Except DecodeError Instr) : List Byte → Except DecodeError Instr
  | [a] => read a
  | _ => .error (.badPayload op)

/-- A payload of two bytes (R100). -/
def twoBytes (op : Byte) (read : Byte → Byte → Except DecodeError Instr) : List Byte → Except DecodeError Instr
  | [a, b] => read a b
  | _ => .error (.badPayload op)

/-- A payload of three bytes (R100). -/
def threeBytes (op : Byte) (read : Byte → Byte → Byte → Except DecodeError Instr) :
    List Byte → Except DecodeError Instr
  | [a, b, c] => read a b c
  | _ => .error (.badPayload op)

/-- A payload of four bytes (R100). -/
def fourBytes (op : Byte) (read : Byte → Byte → Byte → Byte → Except DecodeError Instr) :
    List Byte → Except DecodeError Instr
  | [a, b, c, d] => read a b c d
  | _ => .error (.badPayload op)

/-- A command whose payload is a constant (R100). -/
def fixedPayload (op : Byte) (bytes : List Byte) (c : Instr) (payload : List Byte) : Except DecodeError Instr :=
  if payload = bytes then .ok c else .error (.badPayload op)

/-- Decode a bus command from its opcode byte and its payload bytes (R100). -/
def decodePayload (op : Byte) (payload : List Byte) : Except DecodeError Instr :=
  match op.toNat with
  | 0x01 => threeBytes op decodeDriverOutput payload
  | 0x10 => oneByte op (fun c => .ok (.cmdDeepSleepMode c)) payload
  | 0x11 => oneByte op decodeDataEntry payload
  | 0x12 => noPayload op .cmdSwReset payload
  | 0x18 => fixedPayload op Machine.temperaturePayload .cmdTemperatureSensor payload
  | 0x20 => noPayload op .cmdMasterActivation payload
  | 0x21 => fixedPayload op Machine.duc1Payload .cmdDisplayUpdateControl1 payload
  | 0x22 => oneByte op (fun f => .ok (.cmdDisplayUpdateControl2 f)) payload
  | 0x24 => decodeString op .cmdWriteRamBw payload
  | 0x26 => decodeString op .cmdWriteRamRed payload
  | 0x32 => decodeString op .cmdWriteLut payload
  | 0x3C => oneByte op (fun b => .ok (.cmdBorderWaveform b)) payload
  | 0x44 => twoBytes op (fun xs xe => .ok (.cmdSetRamXWindow xs xe)) payload
  | 0x45 => fourBytes op (fun a b c d => .ok (.cmdSetRamYWindow (joinBytes a b) (joinBytes c d))) payload
  | 0x4E => oneByte op (fun x => .ok (.cmdSetRamXCounter x)) payload
  | 0x4F => twoBytes op (fun a b => .ok (.cmdSetRamYCounter (joinBytes a b))) payload
  | _ => .error (.unknownCommand op)

/-- Decode a bus command: the byte of its command frame, then the bytes of its data frame (R100, R102). -/
def decodeCommand : List Byte → Except DecodeError Instr
  | [] => .error .emptyFrame
  | op :: payload => decodePayload op payload

/-! The encoder, written from the same tables. -/

/-- The 16 descriptor bytes; RSVD and every field the operation does not use are 0 (R90, R97). -/
def descriptorBytes (op imm8 : Byte) (x y w h : Half) (lenA lenB : Nat) : List Byte :=
  [op, imm8, 0#8, 0#8, lo8 x.toNat, hi8 x.toNat, lo8 y.toNat, hi8 y.toNat, lo8 w.toNat, hi8 w.toNat,
    lo8 h.toNat, hi8 h.toNat, lo8 lenA, hi8 lenA, lo8 lenB, hi8 lenB]

/-- The descriptor of an operation that reads no field but OP and IMM8. -/
def plainDescriptor (op imm8 : Byte) : List Byte := descriptorBytes op imm8 0#16 0#16 0#16 0#16 0 0

/-- The request of an operation with one buffer. -/
def bufferRequest (op : Byte) (a : List Byte) : List Byte :=
  descriptorBytes op 0#8 0#16 0#16 0#16 0#16 a.length 0 ++ a

/-- `IMM8` of SET_LUT (R91). -/
def lutModeByte : RefreshMode → Byte
  | .fullRefresh => 0x00#8
  | .partialRefresh => 0x01#8

/-- The bytes of an instruction: a host request as the host presents it (R97), or a bus command's opcode byte
followed by its payload (R100). -/
def encode : Instr → List Byte
  | .init => plainDescriptor 0x01#8 0#8
  | .sleep => plainDescriptor 0x02#8 0#8
  | .setLut mode => plainDescriptor 0x03#8 (lutModeByte mode)
  | .waitIdle => plainDescriptor 0x04#8 0#8
  | .updateFrame a => bufferRequest 0x10#8 a
  | .updatePartialFrame x y w h a => descriptorBytes 0x11#8 0#8 x y w h a.length 0 ++ a
  | .updateColorFrame a b => descriptorBytes 0x12#8 0#8 0#16 0#16 0#16 0#16 a.length b.length ++ (a ++ b)
  | .updateAchromaticFrame a => bufferRequest 0x13#8 a
  | .updateChromaticFrame a => bufferRequest 0x14#8 a
  | .displayFrame => plainDescriptor 0x18#8 0#8
  | .updateAndDisplayFrame a => bufferRequest 0x19#8 a
  | .clearFrame => plainDescriptor 0x1A#8 0#8
  | .setBackgroundColor c => plainDescriptor 0x20#8 c
  | .getBackgroundColor => plainDescriptor 0x21#8 0#8
  | .getWidth => plainDescriptor 0x22#8 0#8
  | .getHeight => plainDescriptor 0x23#8 0#8
  | .cmdDriverOutputControl n linear firstG0 increasing =>
    0x01#8 :: Machine.driverOutput n.toNat linear firstG0 increasing
  | .cmdDeepSleepMode c => [0x10#8, c]
  | .cmdDataEntryMode m yMajor => [0x11#8, Machine.dataEntry m.toNat yMajor.toNat]
  | .cmdSwReset => [0x12#8]
  | .cmdTemperatureSensor => 0x18#8 :: Machine.temperaturePayload
  | .cmdMasterActivation => [0x20#8]
  | .cmdDisplayUpdateControl1 => 0x21#8 :: Machine.duc1Payload
  | .cmdDisplayUpdateControl2 f => [0x22#8, f]
  | .cmdWriteRamBw s => 0x24#8 :: s
  | .cmdWriteRamRed s => 0x26#8 :: s
  | .cmdWriteLut s => 0x32#8 :: s
  | .cmdBorderWaveform b => [0x3C#8, b]
  | .cmdSetRamXWindow xs xe => [0x44#8, xs, xe]
  | .cmdSetRamYWindow ys ye => [0x45#8, lo8 ys.toNat, hi8 ys.toNat, lo8 ye.toNat, hi8 ye.toNat]
  | .cmdSetRamXCounter x => [0x4E#8, x]
  | .cmdSetRamYCounter y => [0x4F#8, lo8 y.toNat, hi8 y.toNat]

/-- Decode an instruction from all of its bytes, by the decoder of the space it belongs to: `bus = false` is the host
request port, `bus = true` a bus command. Bytes after a host request's end are no part of it. -/
def decodeWhole (bus : Bool) (bytes : List Byte) : Except DecodeError Instr :=
  if bus then decodeCommand bytes
  else
    match decodeRequest bytes with
    | .error e => .error e
    | .ok (i, []) => .ok i
    | .ok (_, _ :: _) => .error .shortStream

/-! The opcode table's words. -/

/-- The low `nbits` bits of `w` as `len` bytes, byte 0 the least significant, zeros above. -/
def wordBytes (nbits w : Nat) : Nat → List Byte
  | 0 => []
  | len + 1 => wordBytes nbits w len ++ [lo8 (w % 2 ^ nbits / 2 ^ (8 * len))]

/-- How many payload bytes follow a bus command's opcode byte; one for a command that carries a byte string of any
length (R100, R102). -/
def payloadLength (op : Nat) : Nat :=
  match op with
  | 0x01 => 3
  | 0x12 => 0
  | 0x20 => 0
  | 0x21 => 2
  | 0x44 => 2
  | 0x45 => 4
  | 0x4F => 2
  | _ => 1

/-- The bus command that the table word spells, with zeros above its bits. -/
def decodeTableCommand (nbits w : Nat) : Option Instr :=
  match decodeCommand (wordBytes nbits w (1 + payloadLength (w % 2 ^ nbits % 256))) with
  | .ok c => some c
  | .error _ => none

/-- The instruction of a table word. Eight numbers are both a host OP and a command byte; a word does not say which
space it is in, and the host request is read first (log 10). -/
def decodeTableWord (nbits w : Nat) : Option Instr :=
  match decodeRequest (wordBytes nbits w 16) with
  | .ok (i, _) => some i
  | .error _ => decodeTableCommand nbits w

end Sys2Proof
end

