-- ==== Sys2Proof/Machine/Profile.lean ====
section
/-! DEFINITION. The panel's geometry (spec/00_scope.md R9) and the table of the two revision profiles (R10). -/

namespace Sys2Proof.Machine

/-- `WIDTH`, in pixels (R9). -/
def panelWidth : Nat := 122

/-- `HEIGHT`, in pixels (R9). -/
def panelHeight : Nat := 250

/-- `ROW_BYTES = ceil(WIDTH / 8) = 16` (R9). -/
def rowBytes : Nat := (panelWidth + 7) / 8

/-- `PLANE_SIZE = ROW_BYTES × HEIGHT = 4000` (R9). -/
def planeSize : Nat := rowBytes * panelHeight

/-- The two columns of R10's table. Both profiles are busy at the High level (spec/90_conflicts.md C3) and send
display update control 1 in INIT (C7). -/
def profileOf : Rev → Profile
  | .legacy =>
    { supportsLut := false, supportsPartial := false, chromaInverted := true,
      busyActiveLevel := .high, usesDuc2 := false, initDuc1 := true }
  | .v4 =>
    { supportsLut := true, supportsPartial := true, chromaInverted := false,
      busyActiveLevel := .high, usesDuc2 := true, initDuc1 := true }

end Sys2Proof.Machine
end

