-- ==== Sys2Proof/Machine/State.lean ====
section
/-! DEFINITION. The machine's state as plain data: every register of spec/10_state.md R37, the hidden state of R36, the
pin levels (R33), the instance's parameters (spec/00_scope.md R11), and the model's own inputs and record: the moves the
transport and the host will make (log 3, log 4) and the event trace (log 6). -/

namespace Sys2Proof.Machine

/-- `PSTATE`: 0 Uninitialized, 1 Ready, 2 Sleeping (R23). -/
inductive PowerState
  | uninitialized
  | ready
  | sleeping
deriving DecidableEq, Repr

/-- `STATUS.CODE` (spec/60_exceptions.md R250). -/
inductive Status
  | ok
  | busError
  | invalidBufferLength
  | invalidGeometry
  | unsupported
  | invalidState
  | panelTimeout
  | illegalOperation
deriving DecidableEq, Repr

/-- The three output pins (R33). -/
inductive Pin
  | csN
  | dc
  | rstN
deriving DecidableEq, Repr

/-- The level driven on each output pin (R33). -/
structure Pins where
  csN : Level
  dc : Level
  rstN : Level
deriving DecidableEq, Repr

/-- The shadow registers of the address window (R28) and of the write cursor (R29). -/
structure Shadow where
  winXS : Byte
  winXE : Byte
  winYS : Half
  winYE : Half
  curX : Byte
  curY : Half
deriving DecidableEq, Repr

/-- A transport transaction (spec/40_framer.md R120). -/
inductive Transaction
  | pinSet (p : Pin) (l : Level)
  | byteOut (b : Byte)
  | pinGet
  | delay (us : Nat)
deriving DecidableEq, Repr

/-- The answer to a transaction (R120). `cut` is no answer: the engine's reset came while the transaction was pending
(spec/70_reset_and_hazards.md R283). -/
inductive Answer
  | ok
  | level (l : Level)
  | err (e : Nat)
  | cut
deriving DecidableEq, Repr

/-- One event of the trace: a transaction and its answer (spec/00_scope.md R16). -/
structure Event where
  txn : Transaction
  answer : Answer
deriving DecidableEq, Repr

/-- What the outside does about a pending transaction (R121, log 3). -/
inductive Move
  /-- The transport answers Ok; for a `PinGet(BUSY)` the sample is `l`, otherwise `l` has no meaning (log 21). -/
  | ok (l : Level)
  /-- The transport answers `Err(e)`. -/
  | err (e : Nat)
  /-- No answer yet: the engine goes on waiting (R122). -/
  | wait
  /-- Engine reset while the transaction is pending; the one move that a `Delay` takes (spec/70_reset_and_hazards.md R283,
  log 15, log 20). -/
  | reset
deriving DecidableEq, Repr

/-- The transport's moves to come: a finite script, then a loop repeated for ever. With both empty the transport never
answers (spec/93_implementation_defined.md I2). -/
structure Env where
  script : List Move
  loop : List Move
deriving DecidableEq, Repr

/-- What the host does at the request port while the engine is idle (spec/60_exceptions.md R266, log 4). -/
inductive HostMove
  /-- Present a request: the descriptor's 16 bytes and the stream bytes (spec/30_encoding.md R97). -/
  | request (bytes : List Byte)
  /-- Engine reset while idle (spec/70_reset_and_hazards.md R280). -/
  | reset
deriving DecidableEq, Repr

/-- A shadow register write, done when a data frame closes without error (spec/40_framer.md R133). -/
inductive ShadowWrite
  | windowX (xs xe : Byte)
  | windowY (ys ye : Half)
  | counterX (x : Byte)
  | counterY (y : Half)
deriving DecidableEq, Repr

/-- One element of an operation's sequence (R36(b)): a transport transaction, or a register write between two. -/
inductive Item
  /-- Issue a transaction. A `PinGet` is a sample of the current busy poll (spec/40_framer.md R130). -/
  | issue (t : Transaction)
  /-- `POLLS <- 0`, the start of a busy poll. -/
  | startPoll
  /-- A shadow write (R133). -/
  | latch (w : ShadowWrite)
  /-- `DUC2_ACC <- v`, the result of a composition (spec/41_encoders.md R167). -/
  | compose (v : Byte)
  /-- `PSTATE <- p`. -/
  | setPower (p : PowerState)
  /-- `REFRESH <- m`. -/
  | setRefresh (m : RefreshMode)
  /-- `complete(OK)`. -/
  | finish
deriving DecidableEq, Repr

/-- `REQ`, the latched request: every field that R36(a) lists, the ones its operation ignores too. RSVD and the two
lengths are not among them; a length is its buffer's (spec/30_encoding.md R92, log 8). -/
structure Request where
  op : Byte
  imm8 : Byte
  x : Half
  y : Half
  w : Half
  h : Half
  bufA : List Byte
  bufB : List Byte
deriving DecidableEq, Repr

/-- The machine's state. -/
structure State where
  /-- `REV` (R21). -/
  rev : Rev
  /-- The OPEN parameters and the LUT ROM (spec/00_scope.md R11, R35). -/
  params : Params
  /-- `PSTATE` (R23). -/
  pstate : PowerState
  /-- `REFRESH` (R25). -/
  refresh : RefreshMode
  /-- `BG` (R26). -/
  bg : Byte
  /-- `DUC2_ACC` (R27). -/
  duc2Acc : Byte
  /-- `WIN_XS`, `WIN_XE`, `WIN_YS`, `WIN_YE`, `CUR_X`, `CUR_Y` (R28, R29). -/
  shadow : Shadow
  /-- `STATUS.CODE` (R30). -/
  code : Status
  /-- `STATUS.ACTIVE` (R30). -/
  active : Bool
  /-- `ERR_INFO` (R31, log 13). -/
  errInfo : Nat
  /-- `RESULT` (R32). -/
  result : Half
  /-- The levels driven on CS_N, DC and RST_N (R33). -/
  pins : Pins
  /-- `REQ` (R36(a), log 8). -/
  req : Option Request
  /-- `SEQ` (R36(b), log 7): what is left of the operation's sequence after the pending transaction. -/
  seq : List Item
  /-- `POLLS` (R36(c), log 22). -/
  polls : Option Nat
  /-- `PEND` (R36(d)). -/
  pend : Option Transaction
  /-- The transport's moves to come (log 3). -/
  env : Env
  /-- The host's moves to come (log 4). -/
  host : List HostMove
  /-- The event trace, oldest first (log 6). -/
  trace : List Event
deriving DecidableEq, Repr

/-- Why the machine stops. The engine itself never stops (spec/60_exceptions.md R250: an exception ends an operation). -/
inductive Fault
  /-- A data frame of zero bytes was asked for. Raised by the meanings of CMD_WRITE_RAM_BW, CMD_WRITE_RAM_RED and
  CMD_WRITE_LUT on an ill-formed (empty) operand, and of SET_LUT when the parameters hold an empty LUT, which R11
  forbids. spec/40_framer.md R132: the engine never emits one. SAFE: nothing is claimed of such a run (log 14). -/
  | emptyDataFrame
deriving DecidableEq, Repr

/-- Why the model gives no meaning. -/
inductive Refusal
  /-- An instruction that exec does not model. Raised by exec's refused arms only; no arm uses it. SAFE. -/
  | notModelled (mnemonic : String)
  /-- The host presented fewer bytes than its descriptor declares. Raised by step; spec/30_encoding.md R92 makes it a
  host duty. SAFE (log 9). -/
  | requestTooShort
  /-- The host presented stream bytes that no operation reads. Raised by step; spec/93_implementation_defined.md I4:
  refuse. SAFE (log 9). -/
  | surplusStreamBytes
deriving DecidableEq, Repr

/-- The shadows at reset: 0 each (R28, R29). -/
def Shadow.zero : Shadow :=
  { winXS := 0#8, winXE := 0#8, winYS := 0#16, winYE := 0#16, curX := 0#8, curY := 0#16 }

/-- The pin levels at reset: CS_N High, DC Low, RST_N High (R33). -/
def Pins.atReset : Pins := { csN := .high, dc := .low, rstN := .high }

/-- The state right after engine reset of an instance with this strap and these parameters (R37,
spec/70_reset_and_hazards.md R280), with nothing to come from outside and an empty trace. -/
def State.resetOf (rev : Rev) (params : Params) : State where
  rev := rev
  params := params
  pstate := .uninitialized
  refresh := .fullRefresh
  bg := params.bgReset
  duc2Acc := 0x00#8
  shadow := Shadow.zero
  code := .ok
  active := false
  errInfo := 0
  result := 0#16
  pins := Pins.atReset
  req := none
  seq := []
  polls := none
  pend := none
  env := { script := [], loop := [] }
  host := []
  trace := []

/-- The machine right after reset. The strap is V4 (DESIGN CHOICE, log 1); the parameters are the spec's defaults where
it gives one and open constants elsewhere (log 2). -/
def State.reset : State := State.resetOf .v4 Params.atReset

end Sys2Proof.Machine
end

