-- ==== Sys2Proof/Machine/Ops.lean ====
section
/-! DEFINITION. The operations every instruction is built from: ending an operation (spec/60_exceptions.md R252), engine
reset, issuing a transport transaction and taking its answer (spec/40_framer.md R120 to R124, R130), and running a
sequence as far as the transport's answers carry it (log 5). -/

namespace Sys2Proof.Machine

/-! Ending an operation. -/

/-- REQ, SEQ, POLLS and PEND lose their values when ACTIVE falls (spec/10_state.md R36, R39). -/
def State.endOperation (s : State) (code : Status) : State :=
  { s with code := code, active := false, req := none, seq := [], polls := none, pend := none }

/-- `complete(OK)`: the return from an operation (R252). -/
def State.complete (s : State) : State := s.endOperation .ok

/-- The request in progress is INIT's (OP 0x01) or SLEEP's (OP 0x02). -/
def isPowerRequest (req : Option Request) : Bool :=
  req.map Request.op == some 0x01#8 || req.map Request.op == some 0x02#8

/-- The operation fails INIT or SLEEP after its pre-checks, so PSTATE falls to Uninitialized (R252, spec/10_state.md
R24). -/
def failsPower (req : Option Request) (code : Status) : Bool :=
  isPowerRequest req && (code == .busError || code == .panelTimeout)

/-- The transport's error value, of ERR_INFO_WIDTH bits (spec/10_state.md R31, log 13). -/
def errInfoOf (p : Params) (e : Nat) : Nat := e % 2 ^ p.errInfoWidth

/-- PSTATE after an operation raises `code` (R252). -/
def powerAfter (req : Option Request) (code : Status) (pstate : PowerState) : PowerState :=
  if failsPower req code then .uninitialized else pstate

/-- ERR_INFO after an operation raises `code` with `info`: written for BUS_ERROR only (R252, spec/10_state.md R31). -/
def errInfoAfter (p : Params) (code : Status) (info old : Nat) : Nat :=
  if code = .busError then errInfoOf p info else old

/-- `raise S(info)`: taking an exception. ERR_INFO is written for BUS_ERROR only, PSTATE for INIT and SLEEP only,
and nothing else is undone (R252). -/
def State.raise (s : State) (code : Status) (info : Nat) : State :=
  { s.endOperation code with
    errInfo := errInfoAfter s.params code info s.errInfo
    pstate := powerAfter s.req code s.pstate }

/-- Engine reset: every register takes its reset value; the strap and the parameters are fixed, and the outside and the
trace are no part of the engine (spec/70_reset_and_hazards.md R280 to R284). -/
def State.engineReset (s : State) : State :=
  { State.resetOf s.rev s.params with env := s.env, host := s.host, trace := s.trace }

/-! Transactions. -/

/-- The next move of the transport: from the script, then round the loop (log 3). -/
def Env.next (e : Env) : Option (Move × Env) :=
  match e.script with
  | m :: rest => some (m, { e with script := rest })
  | [] =>
    match e.loop with
    | [] => none
    | m :: rest => some (m, { e with script := rest })

/-- Record the answer to the pending transaction as an event (spec/00_scope.md R16). -/
def State.record (s : State) (t : Transaction) (a : Answer) : State :=
  { s with trace := s.trace ++ [{ txn := t, answer := a }], pend := none }

/-- Drive a pin (spec/10_state.md R33). -/
def Pins.set (p : Pins) (pin : Pin) (l : Level) : Pins :=
  match pin with
  | .csN => { p with csN := l }
  | .dc => { p with dc := l }
  | .rstN => { p with rstN := l }

/-- A successful `PinSet` changes the recorded level (R33). -/
def State.setPin (s : State) (pin : Pin) (l : Level) : State := { s with pins := s.pins.set pin l }

/-- Write the shadow registers (R28, R29). -/
def Shadow.put (sh : Shadow) (w : ShadowWrite) : Shadow :=
  match w with
  | .windowX xs xe => { sh with winXS := xs, winXE := xe }
  | .windowY ys ye => { sh with winYS := ys, winYE := ye }
  | .counterX x => { sh with curX := x }
  | .counterY y => { sh with curY := y }

/-- A shadow write as a step of the sequence (spec/40_framer.md R133). -/
def State.latch (s : State) (w : ShadowWrite) : State := { s with shadow := s.shadow.put w }

/-- How a stretch of a sequence ends: it may go on, or the machine stops where it is (the engine waits, or the operation
is over). -/
inductive Turn
  | go (s : State)
  | stop (s : State)
deriving DecidableEq, Repr

/-- The state a stretch ends in. -/
def Turn.state : Turn → State
  | .go s => s
  | .stop s => s

/-- The engine waits for the answer to `t` with `rest` still to do (spec/10_state.md R36). -/
def State.await (s : State) (t : Transaction) (rest : List Item) : State :=
  { s with pend := some t, seq := rest ++ s.seq }

/-- `BUSY` reads busy when the sample equals the profile's active level (R34). -/
def isBusy (rev : Rev) (l : Level) : Bool := l == (profileOf rev).busyActiveLevel

/-- The deadline is reached: BUSY_POLL_LIMIT is not NONE and at most `polls` (spec/40_framer.md R130). -/
def limitReached (limit : Option Nat) (polls : Nat) : Bool :=
  match limit with
  | none => false
  | some n => decide (n ≤ polls)

/-- After a busy sample has been counted in `POLLS`: PANEL_TIMEOUT at the deadline, else the poll interval and then the next
sample (R130, R131). -/
def busySample (rest : List Item) (s : State) : Turn :=
  match limitReached s.params.busyPollLimit (s.polls.getD 0) with
  | true => .stop (s.raise .panelTimeout 0)
  | false => .stop (s.await (.delay s.params.pollIntervalUs) (.issue .pinGet :: rest))

/-- A sample of the busy poll: idle ends the poll, busy counts (R130, R131). -/
def sampled (l : Level) (rest : List Item) (s : State) : Turn :=
  match isBusy s.rev l with
  | false => .go s
  | true => busySample rest { s with polls := some (s.polls.getD 0 + 1) }

/-- The transport answers `Ok` (R120). -/
def answeredOk (t : Transaction) (l : Level) (rest : List Item) (s : State) : Turn :=
  match t with
  | .pinSet p level => .go ((s.record t .ok).setPin p level)
  | .byteOut _ => .go (s.record t .ok)
  | .pinGet => sampled l rest (s.record t (.level l))
  | .delay _ => .go (s.record t .ok)

/-- What a move of the outside does to the pending transaction `t` (R121, R124; spec/60_exceptions.md R253; log 15). -/
def moved (m : Move) (t : Transaction) (rest : List Item) (s : State) : Turn :=
  match m with
  | .ok l => answeredOk t l rest s
  | .err e => .stop ((s.record t (.err e)).raise .busError e)
  | .wait => .stop (s.await t rest)
  | .reset => .stop (s.record t .cut).engineReset

/-- Take the answer to transaction `t`. A `Delay` always answers Ok (R121) and takes no move for it, unless the next move is
an engine reset, which ends the operation at once (spec/70_reset_and_hazards.md R283, log 20); anything else is answered by
the transport's next move, and where it makes none the engine waits (R122). -/
def settle (t : Transaction) (rest : List Item) (s : State) : Turn :=
  match t with
  | .delay _ =>
    match s.env.next with
    | some (.reset, env) => moved .reset t rest { s with env := env }
    | _ => .go (s.record t .ok)
  | _ =>
    match s.env.next with
    | none => .stop (s.await t rest)
    | some (m, env) => moved m t rest { s with env := env }

/-! Sequences. -/

/-- One element of a sequence; `rest` is what follows it. -/
def perform (item : Item) (rest : List Item) (s : State) : Turn :=
  match item with
  | .issue t => settle t rest s
  | .startPoll => .go { s with polls := some 0 }
  | .latch w => .go (s.latch w)
  | .compose v => .go { s with duc2Acc := v }
  | .setPower p => .go { s with pstate := p }
  | .setRefresh m => .go { s with refresh := m }
  | .finish => .stop s.complete

/-- Run a stretch of a sequence, in order, one transaction at a time (spec/20_memory.md R69). While it runs, `seq` holds
what comes after the stretch. -/
def run : List Item → State → Turn
  | [], s => .go s
  | item :: rest, s =>
    match perform item rest s with
    | .go s' => run rest s'
    | .stop s' => .stop s'

/-- Take the pending transaction's answer, if there is one, and then run the stretch. -/
def proceed (own : List Item) (s : State) : Turn :=
  match s.pend with
  | none => run own s
  | some t =>
    match settle t own s with
    | .go s' => run own s'
    | .stop s' => .stop s'

/-- Continue the operation in progress (log 5). -/
def resume (s : State) : State := (proceed s.seq { s with seq := [] }).state

/-- The request of an operation, with 0 in the fields that it ignores (spec/30_encoding.md R93). The port then latches
what the descriptor holds there (`State.latchDescriptor`). A bus command is no request. -/
def requestOf : Instr → Request
  | .init => plain 0x01#8
  | .sleep => plain 0x02#8
  | .setLut mode => { plain 0x03#8 with imm8 := lutModeByte mode }
  | .waitIdle => plain 0x04#8
  | .updateFrame a => { plain 0x10#8 with bufA := a }
  | .updatePartialFrame x y w h a => { plain 0x11#8 with x := x, y := y, w := w, h := h, bufA := a }
  | .updateColorFrame a b => { plain 0x12#8 with bufA := a, bufB := b }
  | .updateAchromaticFrame a => { plain 0x13#8 with bufA := a }
  | .updateChromaticFrame a => { plain 0x14#8 with bufA := a }
  | .displayFrame => plain 0x18#8
  | .updateAndDisplayFrame a => { plain 0x19#8 with bufA := a }
  | .clearFrame => plain 0x1A#8
  | .setBackgroundColor c => { plain 0x20#8 with imm8 := c }
  | .getBackgroundColor => plain 0x21#8
  | .getWidth => plain 0x22#8
  | .getHeight => plain 0x23#8
  | .cmdDriverOutputControl _ _ _ _ | .cmdDeepSleepMode _ | .cmdDataEntryMode _ _ | .cmdSwReset => plain 0#8
  | .cmdTemperatureSensor | .cmdMasterActivation | .cmdDisplayUpdateControl1 => plain 0#8
  | .cmdDisplayUpdateControl2 _ | .cmdWriteRamBw _ | .cmdWriteRamRed _ | .cmdWriteLut _ => plain 0#8
  | .cmdBorderWaveform _ | .cmdSetRamXWindow _ _ | .cmdSetRamYWindow _ _ => plain 0#8
  | .cmdSetRamXCounter _ | .cmdSetRamYCounter _ => plain 0#8
where
  plain (op : Byte) : Request :=
    { op := op, imm8 := 0#8, x := 0#16, y := 0#16, w := 0#16, h := 0#16, bufA := [], bufB := [] }

/-- The operation of a latched request: OP selects it, and it reads its own fields (spec/30_encoding.md R93, R94). -/
def Request.operation (r : Request) : Option Instr :=
  match r.op.toNat with
  | 0x01 => some .init
  | 0x02 => some .sleep
  | 0x03 => some (.setLut (lutModeOf r.imm8))
  | 0x04 => some .waitIdle
  | 0x10 => some (.updateFrame r.bufA)
  | 0x11 => some (.updatePartialFrame r.x r.y r.w r.h r.bufA)
  | 0x12 => some (.updateColorFrame r.bufA r.bufB)
  | 0x13 => some (.updateAchromaticFrame r.bufA)
  | 0x14 => some (.updateChromaticFrame r.bufA)
  | 0x18 => some .displayFrame
  | 0x19 => some (.updateAndDisplayFrame r.bufA)
  | 0x1A => some .clearFrame
  | 0x20 => some (.setBackgroundColor r.imm8)
  | 0x21 => some .getBackgroundColor
  | 0x22 => some .getWidth
  | 0x23 => some .getHeight
  | _ => none

/-- Accept a request: ACTIVE rises and REQ is latched (spec/60_exceptions.md R266). -/
def State.accept (s : State) (i : Instr) : State :=
  { s with active := true, req := some (requestOf i), seq := [], polls := none, pend := none }

/-- A host operation: accept the request, run the pre-checks (R256), and then its sequence. A failed pre-check issues no
transaction (R257). While ACTIVE = 1 the port is not ready and the request is not accepted (R266, log 12). -/
def startOperation (i : Instr) (failed : Option Status) (sequence : List Item) (s : State) :
    Host.Outcome State Fault Refusal :=
  if s.active then .next s
  else
    match failed with
    | some code => .next ((s.accept i).raise code 0)
    | none => .next (run sequence (s.accept i)).state

/-- A bus command: emitted inside an operation, ahead of what is left of its sequence. While ACTIVE = 0 the engine issues
no transaction (spec/40_framer.md R123, log 12). -/
def emitCommand (items : List Item) (s : State) : Host.Outcome State Fault Refusal :=
  if s.active then .next (proceed items s).state else .next s

/-- An OP value that is not assigned: ILLEGAL_OPERATION at once, no event, no other register (spec/30_encoding.md R96,
R271). -/
def State.illegalOperation (s : State) : State := s.raise .illegalOperation 0

end Sys2Proof.Machine
end

