-- ==== Sys2Proof/Machine/Operands.lean ====
section
/-! DEFINITION. The operand forms of the operations: rectangles (spec/42_ram_addressing.md R183, R184), buffers sent as
they are, inverted, or replaced by a fill (spec/20_memory.md R65, spec/44_frame_ops.md), and the pre-checks on operands
and state (spec/60_exceptions.md R255, R256, R270, R272, R273). -/

namespace Sys2Proof.Machine

/-- A rectangle in pixels, both ends inclusive (42_ram_addressing.md). -/
structure Rect where
  startX : Nat
  startY : Nat
  endX : Nat
  endY : Nat
deriving DecidableEq, Repr

/-- `FULL = (0, 0, WIDTH - 1, HEIGHT - 1)` (R183). -/
def fullPanel : Rect :=
  { startX := 0, startY := 0, endX := panelWidth - 1, endY := panelHeight - 1 }

/-- The rectangle of a partial update (R184). -/
def partialRect (x y w h : Half) : Rect :=
  { startX := x.toNat, startY := y.toNat, endX := x.toNat + w.toNat - 1, endY := y.toNat + h.toNat - 1 }

/-- `x >> 3` in the 8 bits of a payload byte: X in controller byte units (R180). -/
def xUnits (x : Nat) : Byte := lo8 (x / 8)

/-- `Chroma(s)`: every byte complemented on LEGACY, unchanged on V4 (R65). -/
def chroma (rev : Rev) (bytes : List Byte) : List Byte :=
  if (profileOf rev).chromaInverted then bytes.map (fun b => ~~~b) else bytes

/-- `FILL(n)`: n copies of BG, never inverted (R65, 44_frame_ops.md). -/
def fill (s : State) (n : Nat) : List Byte := List.replicate n s.bg

/-! Pre-checks. Each gives the status it fails with, or `none`. -/

/-- PSTATE = Ready, else INVALID_STATE (R255). -/
def checkReady (s : State) : Option Status :=
  if s.pstate = .ready then none else some .invalidState

/-- The profile has partial refresh, else UNSUPPORTED (R270). -/
def checkPartial (s : State) : Option Status :=
  if (profileOf s.rev).supportsPartial then none else some .unsupported

/-- The partial rectangle is valid, else INVALID_GEOMETRY (R272). -/
def checkGeometry (x y w h : Half) : Option Status :=
  if 1 ≤ w.toNat ∧ 1 ≤ h.toNat ∧ x.toNat + w.toNat ≤ panelWidth ∧ y.toNat + h.toNat ≤ panelHeight
      ∧ 8 ≤ w.toNat * h.toNat then none
  else some .invalidGeometry

/-- The buffer has the required length, else INVALID_BUFFER_LENGTH (R273). -/
def checkLength (buf : List Byte) (required : Nat) : Option Status :=
  if buf.length = required then none else some .invalidBufferLength

/-- Checks in order; the first that fails is reported (R256). -/
def firstFailed : List (Option Status) → Option Status
  | [] => none
  | none :: rest => firstFailed rest
  | some code :: _ => some code

end Sys2Proof.Machine
end

