-- ==== Sys2Proof/Machine/Framer.lean ====
section
/-! DEFINITION. The framing primitives (spec/40_framer.md R125 to R130) and the sixteen bus commands (R140 to R155). Each
command has its sequence, which the operations use, and its meaning as an instruction of its own: the same sequence emitted
inside the operation in progress. -/

namespace Sys2Proof.Machine

/-! Primitives. -/

/-- `Frame(dcl, s)` (R125). -/
def frame (dcl : Level) (bytes : List Byte) : List Item :=
  [.issue (.pinSet .csN .low), .issue (.pinSet .dc dcl)]
    ++ bytes.map (fun b => .issue (.byteOut b))
    ++ [.issue (.pinSet .csN .high)]

/-- `send_command(op)` (R126). -/
def sendCommand (op : Byte) : List Item := frame .low [op]

/-- `send_data(s)` (R128). -/
def sendData (bytes : List Byte) : List Item := frame .high bytes

/-- `send_command_with_data(op, s)` (R127). -/
def sendCommandWithData (op : Byte) (bytes : List Byte) : List Item := sendCommand op ++ sendData bytes

/-- `hardware_reset(low_us, high_us)` (R129). -/
def hardwareReset (lowUs highUs : Nat) : List Item :=
  [.issue (.pinSet .rstN .low), .issue (.delay lowUs), .issue (.pinSet .rstN .high), .issue (.delay highUs)]

/-- `wait_until_idle()` (R130). -/
def waitUntilIdle : List Item := [.startPoll, .issue .pinGet]

/-! The bus commands' sequences. -/

/-- `0x01` Driver output control (R140). -/
def driverOutputControl (scanLength : Half) (linear firstG0 increasing : Bool) : List Item :=
  sendCommandWithData 0x01#8 (driverOutput scanLength.toNat linear firstG0 increasing)

/-- `0x10` Deep sleep mode (R141). -/
def deepSleepMode (code : Byte) : List Item := sendCommandWithData 0x10#8 [code]

/-- `0x11` Data entry mode (R142). -/
def dataEntryMode (incMode : BitVec 2) (yMajor : Bool) : List Item :=
  sendCommandWithData 0x11#8 [dataEntry incMode.toNat yMajor.toNat]

/-- `0x12` Software reset (R143). -/
def swReset : List Item := sendCommand 0x12#8

/-- `0x18` Temperature sensor read (R144). -/
def temperatureSensor : List Item := sendCommandWithData 0x18#8 temperaturePayload

/-- `0x20` Master activation (R145). -/
def masterActivation : List Item := sendCommand 0x20#8

/-- `0x21` Display update control 1 (R146). -/
def displayUpdateControl1 : List Item := sendCommandWithData 0x21#8 duc1Payload

/-- `0x22` Display update control 2 (R147). -/
def displayUpdateControl2 (flags : Byte) : List Item := sendCommandWithData 0x22#8 [flags]

/-- `0x24` Write RAM, bank A (R148). -/
def writeRamBw (bytes : List Byte) : List Item := sendCommandWithData 0x24#8 bytes

/-- `0x26` Write RAM, bank C (R149). -/
def writeRamRed (bytes : List Byte) : List Item := sendCommandWithData 0x26#8 bytes

/-- `0x32` Write LUT register (R150). -/
def writeLut (bytes : List Byte) : List Item := sendCommandWithData 0x32#8 bytes

/-- `0x3C` Border waveform control (R151). -/
def borderControl (border : Byte) : List Item := sendCommandWithData 0x3C#8 [border]

/-- `0x44` Set RAM X start-end window, then its shadows (R152, R133). -/
def setRamXWindow (xs xe : Byte) : List Item :=
  sendCommandWithData 0x44#8 [xs, xe] ++ [.latch (.windowX xs xe)]

/-- `0x45` Set RAM Y start-end window, then its shadows (R153, R133). -/
def setRamYWindow (ys ye : Half) : List Item :=
  sendCommandWithData 0x45#8 [lo8 ys.toNat, hi8 ys.toNat, lo8 ye.toNat, hi8 ye.toNat] ++ [.latch (.windowY ys ye)]

/-- `0x4E` Set RAM X address counter, then its shadow (R154, R133). -/
def setRamXCounter (x : Byte) : List Item :=
  sendCommandWithData 0x4E#8 [x] ++ [.latch (.counterX x)]

/-- `0x4F` Set RAM Y address counter, then its shadow (R155, R133). -/
def setRamYCounter (y : Half) : List Item :=
  sendCommandWithData 0x4F#8 [lo8 y.toNat, hi8 y.toNat] ++ [.latch (.counterY y)]

/-! The bus commands as instructions. -/

/-- CMD_DRIVER_OUTPUT_CONTROL (R140). -/
def execCmdDriverOutputControl (scanLength : Half) (linear firstG0 increasing : Bool) (s : State) :
    Host.Outcome State Fault Refusal :=
  emitCommand (driverOutputControl scanLength linear firstG0 increasing) s

/-- CMD_DEEP_SLEEP_MODE (R141). -/
def execCmdDeepSleepMode (code : Byte) (s : State) : Host.Outcome State Fault Refusal :=
  emitCommand (deepSleepMode code) s

/-- CMD_DATA_ENTRY_MODE (R142). -/
def execCmdDataEntryMode (incMode : BitVec 2) (yMajor : Bool) (s : State) : Host.Outcome State Fault Refusal :=
  emitCommand (dataEntryMode incMode yMajor) s

/-- CMD_SW_RESET (R143). -/
def execCmdSwReset (s : State) : Host.Outcome State Fault Refusal := emitCommand swReset s

/-- CMD_TEMPERATURE_SENSOR (R144). -/
def execCmdTemperatureSensor (s : State) : Host.Outcome State Fault Refusal := emitCommand temperatureSensor s

/-- CMD_MASTER_ACTIVATION (R145). -/
def execCmdMasterActivation (s : State) : Host.Outcome State Fault Refusal := emitCommand masterActivation s

/-- CMD_DISPLAY_UPDATE_CONTROL_1 (R146). -/
def execCmdDisplayUpdateControl1 (s : State) : Host.Outcome State Fault Refusal :=
  emitCommand displayUpdateControl1 s

/-- CMD_DISPLAY_UPDATE_CONTROL_2 (R147). V4 only: no operation emits it on LEGACY. DESIGN CHOICE (log 24): executed as an
instruction on a LEGACY engine, which R147 says never happens, it sends its frames as on V4. -/
def execCmdDisplayUpdateControl2 (flags : Byte) (s : State) : Host.Outcome State Fault Refusal :=
  emitCommand (displayUpdateControl2 flags) s

/-- CMD_WRITE_RAM_BW (R148). An empty payload has no frame (R132, log 14). -/
def execCmdWriteRamBw (bytes : List Byte) (s : State) : Host.Outcome State Fault Refusal :=
  if bytes = [] then .fault .emptyDataFrame else emitCommand (writeRamBw bytes) s

/-- CMD_WRITE_RAM_RED (R149). An empty payload has no frame (R132, log 14). -/
def execCmdWriteRamRed (bytes : List Byte) (s : State) : Host.Outcome State Fault Refusal :=
  if bytes = [] then .fault .emptyDataFrame else emitCommand (writeRamRed bytes) s

/-- CMD_WRITE_LUT (R150). An empty payload has no frame (R132, log 14). V4 only: no operation emits it on LEGACY. DESIGN
CHOICE (log 24): executed as an instruction on a LEGACY engine, which R150 says never happens, it sends its frames as on
V4. -/
def execCmdWriteLut (bytes : List Byte) (s : State) : Host.Outcome State Fault Refusal :=
  if bytes = [] then .fault .emptyDataFrame else emitCommand (writeLut bytes) s

/-- CMD_BORDER_WAVEFORM (R151). -/
def execCmdBorderWaveform (border : Byte) (s : State) : Host.Outcome State Fault Refusal :=
  emitCommand (borderControl border) s

/-- CMD_SET_RAM_X_WINDOW (R152). -/
def execCmdSetRamXWindow (xs xe : Byte) (s : State) : Host.Outcome State Fault Refusal :=
  emitCommand (setRamXWindow xs xe) s

/-- CMD_SET_RAM_Y_WINDOW (R153). -/
def execCmdSetRamYWindow (ys ye : Half) (s : State) : Host.Outcome State Fault Refusal :=
  emitCommand (setRamYWindow ys ye) s

/-- CMD_SET_RAM_X_COUNTER (R154). -/
def execCmdSetRamXCounter (x : Byte) (s : State) : Host.Outcome State Fault Refusal :=
  emitCommand (setRamXCounter x) s

/-- CMD_SET_RAM_Y_COUNTER (R155). -/
def execCmdSetRamYCounter (y : Half) (s : State) : Host.Outcome State Fault Refusal :=
  emitCommand (setRamYCounter y) s

/-- The sequence of a bus command; a host operation has none here. -/
def commandItems : Instr → List Item
  | .cmdDriverOutputControl n linear firstG0 increasing => driverOutputControl n linear firstG0 increasing
  | .cmdDeepSleepMode code => deepSleepMode code
  | .cmdDataEntryMode m yMajor => dataEntryMode m yMajor
  | .cmdSwReset => swReset
  | .cmdTemperatureSensor => temperatureSensor
  | .cmdMasterActivation => masterActivation
  | .cmdDisplayUpdateControl1 => displayUpdateControl1
  | .cmdDisplayUpdateControl2 flags => displayUpdateControl2 flags
  | .cmdWriteRamBw bytes => writeRamBw bytes
  | .cmdWriteRamRed bytes => writeRamRed bytes
  | .cmdWriteLut bytes => writeLut bytes
  | .cmdBorderWaveform border => borderControl border
  | .cmdSetRamXWindow xs xe => setRamXWindow xs xe
  | .cmdSetRamYWindow ys ye => setRamYWindow ys ye
  | .cmdSetRamXCounter x => setRamXCounter x
  | .cmdSetRamYCounter y => setRamYCounter y
  | .init | .sleep | .setLut _ | .waitIdle | .updateFrame _ | .updatePartialFrame _ _ _ _ _ => []
  | .updateColorFrame _ _ | .updateAchromaticFrame _ | .updateChromaticFrame _ | .displayFrame => []
  | .updateAndDisplayFrame _ | .clearFrame | .setBackgroundColor _ | .getBackgroundColor => []
  | .getWidth | .getHeight => []

end Sys2Proof.Machine
end

