-- ==== Sys2Proof/Machine/RamAddressing.lean ====
section
/-! DEFINITION. The RAM address window controller (spec/42_ram_addressing.md R180 to R182). -/

namespace Sys2Proof.Machine

/-- `set_ram_area(start_x, start_y, end_x, end_y)` (R180). -/
def setRamArea (r : Rect) : List Item :=
  setRamXWindow (xUnits r.startX) (xUnits r.endX)
    ++ setRamYWindow (BitVec.ofNat 16 r.startY) (BitVec.ofNat 16 r.endY)

/-- `set_ram_address_counters(x, y)`, which polls first (R181). -/
def setRamAddressCounters (x y : Nat) : List Item :=
  waitUntilIdle ++ setRamXCounter (xUnits x) ++ setRamYCounter (BitVec.ofNat 16 y)

/-- The window, then the cursor at the window's origin: what comes before the data of every RAM write (R182). -/
def openWindow (r : Rect) : List Item :=
  setRamArea r ++ setRamAddressCounters r.startX r.startY

/-- `ram_write(0x24, rect, s)` (R182). -/
def ramWriteA (r : Rect) (bytes : List Byte) : List Item := openWindow r ++ writeRamBw bytes

/-- `ram_write(0x26, rect, s)` (R182). -/
def ramWriteC (r : Rect) (bytes : List Byte) : List Item := openWindow r ++ writeRamRed bytes

end Sys2Proof.Machine
end

