-- ==== Sys2Proof/Machine/FrameOps.lean ====
section
/-! DEFINITION. The frame operations (spec/44_frame_ops.md). The bodies are without their `complete(OK)`, so that
UPDATE_AND_DISPLAY_FRAME can join two of them (R222). -/

namespace Sys2Proof.Machine

/-- UPDATE_FRAME's body: bank A, and in Full mode the mirror of bank C to BG (R210). -/
def updateFrameBody (bufA : List Byte) (s : State) : List Item :=
  ramWriteA fullPanel bufA
    ++ (if s.refresh = .fullRefresh then ramWriteC fullPanel (fill s planeSize) else [])

/-- UPDATE_FRAME (R210). -/
def execUpdateFrame (bufA : List Byte) (s : State) : Host.Outcome State Fault Refusal :=
  startOperation (.updateFrame bufA)
    (firstFailed [checkReady s, checkLength bufA planeSize])
    (updateFrameBody bufA s ++ [.finish]) s

/-- UPDATE_PARTIAL_FRAME's body (R212). -/
def updatePartialBody (x y w h : Half) (bufA : List Byte) (s : State) : List Item :=
  ramWriteA (partialRect x y w h) bufA
    ++ (if s.refresh = .fullRefresh then ramWriteC (partialRect x y w h) (fill s bufA.length) else [])

/-- UPDATE_PARTIAL_FRAME, with its four pre-checks in order (R212). -/
def execUpdatePartialFrame (x y w h : Half) (bufA : List Byte) (s : State) : Host.Outcome State Fault Refusal :=
  startOperation (.updatePartialFrame x y w h bufA)
    (firstFailed [checkPartial s, checkReady s, checkGeometry x y w h,
      checkLength bufA (w.toNat * h.toNat / 8)])
    (updatePartialBody x y w h bufA s ++ [.finish]) s

/-- UPDATE_COLOR_FRAME's body: both planes, no mirror (R214). -/
def updateColorBody (bufA bufB : List Byte) (s : State) : List Item :=
  ramWriteA fullPanel bufA ++ ramWriteC fullPanel (chroma s.rev bufB)

/-- UPDATE_COLOR_FRAME; BUF_A's length is checked before BUF_B's (R214, R256). -/
def execUpdateColorFrame (bufA bufB : List Byte) (s : State) : Host.Outcome State Fault Refusal :=
  startOperation (.updateColorFrame bufA bufB)
    (firstFailed [checkReady s, checkLength bufA planeSize, checkLength bufB planeSize])
    (updateColorBody bufA bufB s ++ [.finish]) s

/-- UPDATE_ACHROMATIC_FRAME: bank A only (R216). -/
def execUpdateAchromaticFrame (bufA : List Byte) (s : State) : Host.Outcome State Fault Refusal :=
  startOperation (.updateAchromaticFrame bufA)
    (firstFailed [checkReady s, checkLength bufA planeSize])
    (ramWriteA fullPanel bufA ++ [.finish]) s

/-- UPDATE_CHROMATIC_FRAME: bank C only, inverted on LEGACY (R218). -/
def execUpdateChromaticFrame (bufA : List Byte) (s : State) : Host.Outcome State Fault Refusal :=
  startOperation (.updateChromaticFrame bufA)
    (firstFailed [checkReady s, checkLength bufA planeSize])
    (ramWriteC fullPanel (chroma s.rev bufA) ++ [.finish]) s

/-- DISPLAY_FRAME's body (R220). -/
def displayBody (s : State) : List Item :=
  (if (profileOf s.rev).usesDuc2 then
      [.compose (composeDuc2 s.params displayActions)]
        ++ displayUpdateControl2 (composeDuc2 s.params displayActions)
    else [])
    ++ masterActivation
    ++ waitUntilIdle

/-- DISPLAY_FRAME (R220). -/
def execDisplayFrame (s : State) : Host.Outcome State Fault Refusal :=
  startOperation .displayFrame (checkReady s) (displayBody s ++ [.finish]) s

/-- UPDATE_AND_DISPLAY_FRAME: the two bodies in one operation (R222). -/
def execUpdateAndDisplayFrame (bufA : List Byte) (s : State) : Host.Outcome State Fault Refusal :=
  startOperation (.updateAndDisplayFrame bufA)
    (firstFailed [checkReady s, checkLength bufA planeSize])
    (updateFrameBody bufA s ++ displayBody s ++ [.finish]) s

/-- One pass of CLEAR_FRAME over both banks (R224). -/
def clearPass (s : State) : List Item :=
  ramWriteA fullPanel (fill s planeSize) ++ ramWriteC fullPanel (fill s planeSize)

/-- CLEAR_FRAME's body: a second pass in Full mode (R224). -/
def clearBody (s : State) : List Item :=
  clearPass s ++ (if s.refresh = .fullRefresh then clearPass s else [])

/-- CLEAR_FRAME (R224). -/
def execClearFrame (s : State) : Host.Outcome State Fault Refusal :=
  startOperation .clearFrame (checkReady s) (clearBody s ++ [.finish]) s

end Sys2Proof.Machine
end

