-- ==== Sys2Proof/Machine/Lifecycle.lean ====
section
/-! DEFINITION. The power and lifecycle operations (spec/43_lifecycle.md). -/

namespace Sys2Proof.Machine

/-- INIT's body, in the order of R190 and R192. -/
def initBody (s : State) : List Item :=
  hardwareReset s.params.resetLowUs s.params.resetHighUs
    ++ waitUntilIdle
    ++ swReset
    ++ waitUntilIdle
    ++ driverOutputControl (BitVec.ofNat 16 (panelHeight - 1)) true true true
    ++ dataEntryMode 3#2 false
    ++ setRamArea fullPanel
    ++ setRamAddressCounters 0 0
    ++ borderControl s.params.initBorder
    ++ temperatureSensor
    ++ (if (profileOf s.rev).initDuc1 then displayUpdateControl1 else [])
    ++ waitUntilIdle
    ++ [.setPower .ready, .finish]

/-- INIT, also NEW and WAKE_UP: legal in every PSTATE (R190). -/
def execInit (s : State) : Host.Outcome State Fault Refusal :=
  startOperation .init none (initBody s) s

/-- The display update control 2 and master activation steps of SLEEP on V4 (R194). -/
def sleepActivation (s : State) : List Item :=
  if (profileOf s.rev).usesDuc2 then
    [.compose (composeDuc2 s.params sleepActions)]
      ++ displayUpdateControl2 (composeDuc2 s.params sleepActions)
      ++ masterActivation
  else []

/-- SLEEP's body (R194). -/
def sleepBody (s : State) : List Item :=
  waitUntilIdle
    ++ sleepActivation s
    ++ deepSleepMode s.params.deepSleepCode
    ++ [.setPower .sleeping, .finish]

/-- SLEEP (R194). -/
def execSleep (s : State) : Host.Outcome State Fault Refusal :=
  startOperation .sleep (checkReady s) (sleepBody s) s

/-- SET_LUT's body on a profile with LUT support (R196). -/
def setLutBody (mode : RefreshMode) (s : State) : List Item :=
  writeLut (lutPayload s.params mode) ++ [.setRefresh mode, .finish]

/-- SET_LUT: on LEGACY it completes with no event and no register change; on V4 it needs Ready (R196). A LUT of no bytes,
which R11 forbids, has no data frame to send (R132, log 14). -/
def execSetLut (mode : RefreshMode) (s : State) : Host.Outcome State Fault Refusal :=
  if (profileOf s.rev).supportsLut then
    if lutPayload s.params mode = [] ∧ s.active = false ∧ s.pstate = .ready then .fault .emptyDataFrame
    else startOperation (.setLut mode) (checkReady s) (setLutBody mode s) s
  else startOperation (.setLut mode) none [.finish] s

/-- WAIT_IDLE: an explicit busy poll, legal in every PSTATE (R198). -/
def execWaitIdle (s : State) : Host.Outcome State Fault Refusal :=
  startOperation .waitIdle none (waitUntilIdle ++ [.finish]) s

end Sys2Proof.Machine
end

