-- ==== Sys2Proof/Machine/RegisterOps.lean ====
section
/-! DEFINITION. The register operations (spec/45_register_ops.md): legal in every PSTATE, no transport transaction. -/

namespace Sys2Proof.Machine

/-- A register operation: accept the request, write one register, complete. While ACTIVE = 1 the request is not accepted
(spec/60_exceptions.md R266, log 12). -/
def registerOperation (i : Instr) (write : State → State) (s : State) : Host.Outcome State Fault Refusal :=
  if s.active then .next s else .next (write (s.accept i)).complete

/-- Write RESULT (spec/10_state.md R32). -/
def State.setResult (v : Half) (s : State) : State := { s with result := v }

/-- Write BG (spec/10_state.md R26). -/
def State.setBg (c : Byte) (s : State) : State := { s with bg := c }

/-- SET_BACKGROUND_COLOR: `BG <- c` (R240). -/
def execSetBackgroundColor (color : Byte) (s : State) : Host.Outcome State Fault Refusal :=
  registerOperation (.setBackgroundColor color) (State.setBg color) s

/-- GET_BACKGROUND_COLOR: `RESULT <- zext_16(BG)` (R242). -/
def execGetBackgroundColor (s : State) : Host.Outcome State Fault Refusal :=
  registerOperation .getBackgroundColor (State.setResult (BitVec.ofNat 16 s.bg.toNat)) s

/-- GET_WIDTH: `RESULT <- WIDTH` (R244). -/
def execGetWidth (s : State) : Host.Outcome State Fault Refusal :=
  registerOperation .getWidth (State.setResult (BitVec.ofNat 16 panelWidth)) s

/-- GET_HEIGHT: `RESULT <- HEIGHT` (R246). -/
def execGetHeight (s : State) : Host.Outcome State Fault Refusal :=
  registerOperation .getHeight (State.setResult (BitVec.ofNat 16 panelHeight)) s

end Sys2Proof.Machine
end

