-- ==== Sys2Proof/Machine/Dispatch.lean ====
section
/-! DEFINITION. The meaning of every instruction: one arm per constructor of Instr. -/

namespace Sys2Proof.Machine

def exec (i : Instr) (s : State) : Host.Outcome State Fault Refusal :=
  match i with
  -- power and lifecycle (43_lifecycle.md)
  | .init => Sys2Proof.Machine.execInit s
  | .sleep => Sys2Proof.Machine.execSleep s
  | .setLut mode => Sys2Proof.Machine.execSetLut mode s
  | .waitIdle => Sys2Proof.Machine.execWaitIdle s
  -- frame operations (44_frame_ops.md)
  | .updateFrame bufA => Sys2Proof.Machine.execUpdateFrame bufA s
  | .updatePartialFrame x y w h bufA => Sys2Proof.Machine.execUpdatePartialFrame x y w h bufA s
  | .updateColorFrame bufA bufB => Sys2Proof.Machine.execUpdateColorFrame bufA bufB s
  | .updateAchromaticFrame bufA => Sys2Proof.Machine.execUpdateAchromaticFrame bufA s
  | .updateChromaticFrame bufA => Sys2Proof.Machine.execUpdateChromaticFrame bufA s
  | .displayFrame => Sys2Proof.Machine.execDisplayFrame s
  | .updateAndDisplayFrame bufA => Sys2Proof.Machine.execUpdateAndDisplayFrame bufA s
  | .clearFrame => Sys2Proof.Machine.execClearFrame s
  -- register operations (45_register_ops.md)
  | .setBackgroundColor color => Sys2Proof.Machine.execSetBackgroundColor color s
  | .getBackgroundColor => Sys2Proof.Machine.execGetBackgroundColor s
  | .getWidth => Sys2Proof.Machine.execGetWidth s
  | .getHeight => Sys2Proof.Machine.execGetHeight s
  -- bus commands (40_framer.md)
  | .cmdDriverOutputControl scanLength linear firstG0 increasing => Sys2Proof.Machine.execCmdDriverOutputControl scanLength linear firstG0 increasing s
  | .cmdDeepSleepMode code => Sys2Proof.Machine.execCmdDeepSleepMode code s
  | .cmdDataEntryMode incMode yMajor => Sys2Proof.Machine.execCmdDataEntryMode incMode yMajor s
  | .cmdSwReset => Sys2Proof.Machine.execCmdSwReset s
  | .cmdTemperatureSensor => Sys2Proof.Machine.execCmdTemperatureSensor s
  | .cmdMasterActivation => Sys2Proof.Machine.execCmdMasterActivation s
  | .cmdDisplayUpdateControl1 => Sys2Proof.Machine.execCmdDisplayUpdateControl1 s
  | .cmdDisplayUpdateControl2 flags => Sys2Proof.Machine.execCmdDisplayUpdateControl2 flags s
  | .cmdWriteRamBw bytes => Sys2Proof.Machine.execCmdWriteRamBw bytes s
  | .cmdWriteRamRed bytes => Sys2Proof.Machine.execCmdWriteRamRed bytes s
  | .cmdWriteLut bytes => Sys2Proof.Machine.execCmdWriteLut bytes s
  | .cmdBorderWaveform border => Sys2Proof.Machine.execCmdBorderWaveform border s
  | .cmdSetRamXWindow xs xe => Sys2Proof.Machine.execCmdSetRamXWindow xs xe s
  | .cmdSetRamYWindow ys ye => Sys2Proof.Machine.execCmdSetRamYWindow ys ye s
  | .cmdSetRamXCounter x => Sys2Proof.Machine.execCmdSetRamXCounter x s
  | .cmdSetRamYCounter y => Sys2Proof.Machine.execCmdSetRamYCounter y s

end Sys2Proof.Machine
end

