-- ==== Sys2Proof/Machine/Port.lean ====
section
/-! DEFINITION. The host's request port (spec/60_exceptions.md R266, spec/30_encoding.md R92 to R97) and where the next
instruction comes from. -/

namespace Sys2Proof.Machine

/-- The fields of a presented descriptor in a latched request, the ones its operation ignores too (spec/10_state.md
R36(a)). -/
def Request.withDescriptor (r : Request) (d : Descriptor) : Request :=
  { r with imm8 := d.imm8, x := d.x, y := d.y, w := d.w, h := d.h }

/-- REQ takes the presented descriptor's fields, while it holds a request. No rule reads a field that the operation ignores
(spec/30_encoding.md R94), so that this is done in the step that accepts the request, after its operation has begun, shows
nowhere (log 8). -/
def State.latchDescriptor (s : State) (bytes : List Byte) : State :=
  match readDescriptor bytes with
  | none => s
  | some (d, _) => { s with req := s.req.map (·.withDescriptor d) }

/-- Run a presented request's operation, REQ latching its descriptor (spec/60_exceptions.md R266). -/
def execRequest (i : Instr) (bytes : List Byte) (s : State) : Host.Outcome State Fault Refusal :=
  match exec i s with
  | .next t => .next (t.latchDescriptor bytes)
  | .fault f => .fault f
  | .refused r => .refused r

/-- A request is presented to the idle engine: it is decoded and its operation runs. An unassigned OP completes with
ILLEGAL_OPERATION and reads no stream (R96). A request whose byte count is not what its descriptor declares is no move of
the host's (R92, spec/93_implementation_defined.md I4; log 9). -/
def presentRequest (bytes : List Byte) (s : State) : Host.Outcome State Fault Refusal :=
  match decodeRequest bytes with
  | .ok (i, []) => execRequest i bytes s
  | .ok (_, _ :: _) => .refused .surplusStreamBytes
  | .error (.illegalOp _) =>
    if bytes.length = 16 then .next s.illegalOperation else .refused .surplusStreamBytes
  | .error _ => .refused .requestTooShort

/-- The idle engine takes the host's next move; with none it waits, the request port ready (R281). -/
def hostTurn (s : State) : Host.Outcome State Fault Refusal :=
  match s.host with
  | [] => .next s
  | .reset :: rest => .next { s with host := rest }.engineReset
  | .request bytes :: rest => presentRequest bytes { s with host := rest }

/-- Put a host request where the next step takes it: the engine idle, the request the host's next move (log 10). -/
def State.withRequest (s : State) (bytes : List Byte) : State :=
  { s with active := false, req := none, seq := [], polls := none, pend := none, host := .request bytes :: s.host }

/-- Put a bus command where the next step takes it: an operation in progress, the command first in its sequence
(log 10). -/
def State.withCommand (s : State) (c : Instr) : State :=
  { s with active := true, pend := none, seq := commandItems c ++ s.seq }

/-- Put the instruction of an opcode-table word where the next step runs it: a word that a host request can spell as a
request, one that only a bus command can as a bus command, any other as a request (log 10). -/
def placeTableWord (s : State) (nbits w : Nat) : State :=
  match decodeRequest (wordBytes nbits w 16) with
  | .ok _ => s.withRequest (wordBytes nbits w 16)
  | .error _ =>
    match decodeTableCommand nbits w with
    | some c => s.withCommand c
    | none => s.withRequest (wordBytes nbits w 16)

end Sys2Proof.Machine
end

