-- ==== Sys2Proof/Machine/Step.lean ====
section
/-! DEFINITION. One step. The idle engine takes the host's next move; an engine in an operation goes on with it, as far as
the transport's answers carry it (log 5). -/

namespace Sys2Proof.Machine

/-- One step of the machine (spec/10_state.md R22, spec/60_exceptions.md R266). -/
def step (s : State) : Host.Outcome State Fault Refusal :=
  if s.active then .next (resume s) else hostTurn s

/-- The state in which the next step runs the instruction of an opcode-table word (log 10, log 11). -/
def State.withFetchWord (s : State) (nbits w : Nat) : State := placeTableWord s nbits w

end Sys2Proof.Machine
end

