-- ==== Sys2Proof/Machine/Flags.lean ====
section
/-! DEFINITION. The engine has no condition codes beyond STATUS (spec/10_state.md R38). Here are STATUS's fields and the
read-only register window through which the host sees every register (R30, R37). -/

namespace Sys2Proof.Machine

/-- The code numbers of spec/60_exceptions.md R250. -/
def statusNumber : Status → Nat
  | .ok => 0
  | .busError => 1
  | .invalidBufferLength => 2
  | .invalidGeometry => 3
  | .unsupported => 4
  | .invalidState => 5
  | .panelTimeout => 6
  | .illegalOperation => 7

/-- `REV`: 0 = LEGACY, 1 = V4 (R21). -/
def revNumber : Rev → Nat
  | .legacy => 0
  | .v4 => 1

/-- `PSTATE`'s values (R23). -/
def powerNumber : PowerState → Nat
  | .uninitialized => 0
  | .ready => 1
  | .sleeping => 2

/-- `REFRESH`: 0 = Full, 1 = Partial (R25). -/
def refreshNumber : RefreshMode → Nat
  | .fullRefresh => 0
  | .partialRefresh => 1

/-- A level as a bit: 1 = High (R37). -/
def levelNumber : Level → Nat
  | .low => 0
  | .high => 1

/-- The STATUS byte: CODE in bits 2:0, bits 6:3 zero, ACTIVE in bit 7 (R30). -/
def statusByte (s : State) : Byte :=
  BitVec.ofNat 8 (statusNumber s.code + 128 * s.active.toNat)

/-- The PINS register: bit 0 CS_N, bit 1 DC, bit 2 RST_N (R37). -/
def pinsNumber (p : Pins) : Nat :=
  levelNumber p.csN + 2 * levelNumber p.dc + 4 * levelNumber p.rstN

/-- What the host reads at register number `n` of the window (R37); numbers 0xF and up read as 0. -/
def windowRead (s : State) (n : Nat) : Nat :=
  match n with
  | 0x0 => revNumber s.rev
  | 0x1 => powerNumber s.pstate
  | 0x2 => refreshNumber s.refresh
  | 0x3 => s.bg.toNat
  | 0x4 => s.duc2Acc.toNat
  | 0x5 => s.shadow.winXS.toNat
  | 0x6 => s.shadow.winXE.toNat
  | 0x7 => s.shadow.winYS.toNat
  | 0x8 => s.shadow.winYE.toNat
  | 0x9 => s.shadow.curX.toNat
  | 0xA => s.shadow.curY.toNat
  | 0xB => (statusByte s).toNat
  | 0xC => s.errInfo
  | 0xD => s.result.toNat
  | 0xE => pinsNumber s.pins
  | _ => 0

end Sys2Proof.Machine
end

