-- ==== Sys2Proof/Machine/Memory.lean ====
section
/-! DEFINITION. A memory as a list of (address, byte) cells with strictly rising addresses. An address that is not
listed reads as no value (`none`): the observer's `unknown` (spec/20_memory.md R71). -/

namespace Sys2Proof.Machine

/-- A sparse memory in its canonical form (see `Memory.wf`). -/
abbrev Memory := List Host.Cell

/-- The byte at an address, `none` where the byte is unknown (R71). -/
def Memory.read (m : Memory) (a : Nat) : Option Byte :=
  match m with
  | [] => none
  | (k, v) :: rest => if k = a then some v else Memory.read rest a

/-- `MemWrite((bank, a), 1, b)` (spec/00_scope.md R15): set one byte, keeping the addresses rising. -/
def Memory.write (m : Memory) (a : Nat) (b : Byte) : Memory :=
  match m with
  | [] => [(a, b)]
  | (k, v) :: rest =>
    if a < k then (a, b) :: (k, v) :: rest
    else if a = k then (a, b) :: rest
    else (k, v) :: Memory.write rest a b

/-- Every listed address lies above `lo`, and the addresses rise. -/
def Memory.risesAbove (lo : Nat) : Memory → Bool
  | [] => true
  | (k, _) :: rest => decide (lo < k) && Memory.risesAbove k rest

/-- The canonical form: strictly rising addresses. An unlisted address reads as no value, so no entry can equal it. -/
def Memory.wf : Memory → Bool
  | [] => true
  | (k, _) :: rest => Memory.risesAbove k rest

end Sys2Proof.Machine
end

