-- ==== Sys2Proof/Machine/Observer.lean ====
section
/-! DEFINITION. The reference observer of the controller's RAM (spec/20_memory.md R70 to R77): a function from the event
trace to a view of banks A and C. No rule of the engine reads it. `none` is the spec's `unknown` (R71). -/

namespace Sys2Proof.Machine

/-- The observer's state (R71), with what it must remember of the wires to find the frames (R72). -/
structure Observer where
  bankA : Memory
  bankC : Memory
  xs : Option Nat
  xe : Option Nat
  ys : Option Nat
  ye : Option Nat
  cx : Option Nat
  cy : Option Nat
  cmd : Option Byte
  /-- The levels of the pins as last driven. -/
  pins : Pins
  /-- The bytes of the current data frame so far, oldest first. -/
  data : List Byte
  /-- A pin or a transaction has been left in doubt, and no reset pulse has come since: no frame from now on is known
  (spec/93_implementation_defined.md I1, I6; log 16). -/
  lost : Bool
deriving DecidableEq, Repr

/-- At the start everything is unknown, and the pins are at their reset levels (R71, spec/10_state.md R33). -/
def Observer.start : Observer :=
  { bankA := [], bankC := [], xs := none, xe := none, ys := none, ye := none, cx := none, cy := none, cmd := none,
    pins := Pins.atReset, data := [], lost := false }

/-- The window, the cursor and the command become unknown (R75). -/
def Observer.forgetAddressing (o : Observer) : Observer :=
  { o with xs := none, xe := none, ys := none, ye := none, cx := none, cy := none, cmd := none }

/-- Every field becomes unknown, the banks included (R75). -/
def Observer.forget (o : Observer) : Observer := { o.forgetAddressing with bankA := [], bankC := [] }

/-- No guarantee about frames from now on; what was delivered before stays (R72, spec/93_implementation_defined.md I1, I16). -/
def Observer.doubt (o : Observer) : Observer := { o with lost := true }

/-- Every field is unknown, and so is what later frames do (spec/93_implementation_defined.md I6; log 16). -/
def Observer.lose (o : Observer) : Observer := o.forget.doubt

/-- The bank a RAM write command addresses: 0x24 writes bank A, 0x26 bank C (R74). -/
def Observer.setBank (o : Observer) (isA : Bool) (m : Memory) : Observer :=
  if isA then { o with bankA := m } else { o with bankC := m }

/-- The cursor after a RAM byte: X first, the next row past the window's end, back to the window's first row past its last
(R74, general knowledge, log 17). Each assignment of R74 runs whether or not all is known: a comparison with an unknown side
leaves what it decides unknown, and everything else stays known (DEDUCED, log 26). -/
def advanceCursor (xs xe ys ye cx cy : Option Nat) : Option Nat × Option Nat :=
  let row :=
    match cx, xe with
    | some x, some last => if x + 1 > last then (xs, cy.map (· + 1)) else (some (x + 1), cy)
    | _, _ => (none, none)
  let column :=
    match row.2, ye with
    | some y, some last => if y > last then ys else some y
    | _, _ => none
  (row.1, column)

/-- The bank entry a RAM byte goes to: window and cursor all known, and the cursor inside the bank (R74). -/
def Observer.target (o : Observer) : Option Nat :=
  match o.xs, o.xe, o.ys, o.ye, o.cx, o.cy with
  | some _, some _, some _, some _, some cx, some cy => if cx < 16 ∧ cy < 250 then some (cy * 16 + cx) else none
  | _, _, _, _, _, _ => none

/-- One RAM byte: it is written where the cursor is, or the whole bank becomes unknown; then the cursor advances (R74). -/
def Observer.ramByte (o : Observer) (isA : Bool) (b : Byte) : Observer :=
  let bank := if isA then o.bankA else o.bankC
  let bank' :=
    match o.target with
    | some a => bank.write a b
    | none => []
  let next := advanceCursor o.xs o.xe o.ys o.ye o.cx o.cy
  { o.setBank isA bank' with cx := next.1, cy := next.2 }

/-- A little-endian pair of bytes of the current data frame (R73). -/
def leWord (lo hi : Byte) : Nat := lo.toNat + 256 * hi.toNat

/-- The window and cursor commands, by the bytes of the data frame so far (R73). A field is set when its last byte has
arrived (log 16). -/
def Observer.setField (o : Observer) (op : Nat) : Observer :=
  match op, o.data with
  | 0x44, [a] => { o with xs := some a.toNat }
  | 0x44, [_, b] => { o with xe := some b.toNat }
  | 0x45, [a, b] => { o with ys := some (leWord a b) }
  | 0x45, [_, _, c, d] => { o with ye := some (leWord c d) }
  | 0x4E, [a] => { o with cx := some a.toNat }
  | 0x4F, [a, b] => { o with cy := some (leWord a b) }
  | _, _ => o

/-- A byte of a data frame, delivered to the current command (R72, R73, R74). DESIGN CHOICE (log 27): R72 does not say what a
data frame does while the command is unknown; its bytes are delivered to nothing, and banks, window and cursor stay as they
are. So are bytes past those that R73 names. -/
def Observer.dataByte (o : Observer) (b : Byte) : Observer :=
  let o' := { o with data := o.data ++ [b] }
  match o.cmd with
  | none => o'
  | some op =>
    if op = 0x24#8 then o'.ramByte true b
    else if op = 0x26#8 then o'.ramByte false b
    else o'.setField op.toNat

/-- The byte of a command frame; software reset makes window, cursor and command unknown (R72, R75). R72's command frame
carries one byte; each byte of a longer one is taken as a command in turn (DESIGN CHOICE, log 27). -/
def Observer.commandByte (o : Observer) (op : Byte) : Observer :=
  if op = 0x12#8 then o.forgetAddressing else { o with cmd := some op }

/-- A byte on the wire: DC tells command from data, by its level when the byte is sent (log 27 for a level that changes within
a frame); outside a frame there is no byte to deliver (R72). With a wire in doubt the byte may be any part of any frame, or of
none, so every field becomes unknown (I1, log 16). -/
def Observer.wireByte (o : Observer) (b : Byte) : Observer :=
  if o.lost then o.forget
  else if o.pins.csN = .high then o
  else
    match o.pins.dc with
    | .low => o.commandByte b
    | .high => o.dataByte b

/-- A pin driven to a level: chip-select driven Low starts a frame, and the end of a reset pulse makes everything unknown and
settles every doubt (R72, R75). DESIGN CHOICE (log 25): R72 speaks of CS_N falling; after a frame cut by a failed `ByteOut`
CS_N is still Low, and the next `PinSet(CS_N, Low)` starts a new frame all the same. -/
def Observer.wirePin (o : Observer) (p : Pin) (l : Level) : Observer :=
  match p, l with
  | .csN, .low => { o with pins := { o.pins with csN := .low }, data := [] }
  | .csN, .high => { o with pins := { o.pins with csN := .high } }
  | .dc, _ => { o with pins := { o.pins with dc := l } }
  | .rstN, .low => { o with pins := { o.pins with rstN := .low } }
  | .rstN, .high =>
    let o' := { o with pins := { o.pins with rstN := .high } }
    if o.pins.rstN = .low then { o'.forget with lost := false } else o'

/-- A pin that did not answer Ok: its wire may be at either level (I1). The bytes accepted before stay delivered, the banks,
the window, the cursor and the command as they are (R72, I16), and no frame from now on is known. RST_N's wire may have made a
reset pulse, after which nothing is known (R75; DEDUCED, log 16). -/
def Observer.pinFailed (o : Observer) (p : Pin) : Observer :=
  match p with
  | .csN => o.doubt
  | .dc => o.doubt
  | .rstN => o.lose

/-- One event of the trace. A byte that was not accepted is not delivered, and changes nothing (R72); a pin that did not answer
Ok leaves its wire in doubt (I1); a transaction cut by the engine's reset leaves the controller's whole state unknown (I6). -/
def Observer.see (o : Observer) (e : Event) : Observer :=
  match e.txn, e.answer with
  | .pinSet p l, .ok => o.wirePin p l
  | .byteOut b, .ok => o.wireByte b
  | _, .cut => o.lose
  | .pinSet p _, _ => o.pinFailed p
  | _, _ => o

/-- The observer's view after a trace (R70). -/
def observe (trace : List Event) : Observer := trace.foldl Observer.see Observer.start

end Sys2Proof.Machine
end

