-- ==== Sys2Proof/Machine/Trace.lean ====
section
/-! DEFINITION. The trace notation of spec/00_scope.md R16, as lists of events whose answers are Ok. The sequences of the
machine do not use it: it is how a statement writes the trace the spec prints. -/

namespace Sys2Proof.Machine

/-- A transaction answered Ok. -/
def okEvent (t : Transaction) : Event := { txn := t, answer := .ok }

/-- `P(pin,l)` (R16). -/
def evPin (p : Pin) (l : Level) : List Event := [okEvent (.pinSet p l)]

/-- `B(b0) … B(bn-1)` (R16). -/
def evBytes (bytes : List Byte) : List Event := bytes.map (fun b => okEvent (.byteOut b))

/-- `D(us)` (R16). -/
def evDelay (us : Nat) : List Event := [okEvent (.delay us)]

/-- `R(BUSY)=l` (R16). -/
def evSample (l : Level) : List Event := [{ txn := .pinGet, answer := .level l }]

/-- `CMD(op) = P(CS_N,L) P(DC,L) B(op) P(CS_N,H)` (R16). -/
def evCmd (op : Byte) : List Event :=
  evPin .csN .low ++ evPin .dc .low ++ evBytes [op] ++ evPin .csN .high

/-- `DAT(b0,...,bn-1) = P(CS_N,L) P(DC,H) B(b0) ... B(bn-1) P(CS_N,H)` (R16). -/
def evDat (bytes : List Byte) : List Event :=
  evPin .csN .low ++ evPin .dc .high ++ evBytes bytes ++ evPin .csN .high

/-- `WAITOK`, a poll whose first sample is idle: `R(BUSY)=L` (R16). -/
def evWaitOk : List Event := evSample .low

/-! Longer stretches, every sample of BUSY idle. -/

/-- The events of `set_ram_area` (spec/42_ram_addressing.md R180). -/
def evArea (r : Rect) : List Event :=
  evCmd 0x44#8 ++ evDat [xUnits r.startX, xUnits r.endX]
    ++ evCmd 0x45#8 ++ evDat [lo8 r.startY, hi8 r.startY, lo8 r.endY, hi8 r.endY]

/-- The events of `set_ram_address_counters` (spec/42_ram_addressing.md R181). -/
def evCounters (x y : Nat) : List Event :=
  evWaitOk ++ evCmd 0x4E#8 ++ evDat [xUnits x] ++ evCmd 0x4F#8 ++ evDat [lo8 y, hi8 y]

/-- The events of `ram_write(op, rect, s)` (spec/42_ram_addressing.md R182, R183). -/
def evRamWrite (op : Byte) (r : Rect) (bytes : List Byte) : List Event :=
  evArea r ++ evCounters r.startX r.startY ++ evCmd op ++ evDat bytes

end Sys2Proof.Machine
end

