-- ==== Sys2Proof/Safety.lean ====
section
/-! DEFINITION. The terms in which claims about a run are made: what the transport is heard to answer, the sequence of an
operation, and the invariant of the machine between two steps. -/

namespace Sys2Proof.Machine

/-! What the transport answers. -/

/-- The next `n` moves of the transport are Ok, and `more` of its script is left after them. -/
def State.hearsOk (s : State) (n : Nat) (more : List Move) : Prop :=
  ∃ ms, s.env.script = ms ++ more ∧ ms.length = n ∧ ∀ m ∈ ms, ∃ l, m = .ok l

/-- The next `n` moves of the transport are Ok, each with the idle level should it answer a sample of BUSY, and `more` of
its script is left after them ("every busy sample idle", spec/43_lifecycle.md). -/
def State.hearsIdle (s : State) (n : Nat) (more : List Move) : Prop :=
  ∃ ms, s.env.script = ms ++ more ∧ ms.length = n ∧ ∀ m ∈ ms, ∃ l, m = .ok l ∧ isBusy s.rev l = false

/-- No engine reset is to come in place of an answer. -/
def State.noReset (s : State) : Prop := Move.reset ∉ s.env.script ∧ Move.reset ∉ s.env.loop

/-- The state after events that were all answered Ok: the trace has grown by `evs`, `more` of the script is left, and the
pins are at `pins`. -/
def State.after (s : State) (evs : List Event) (pins : Pins) (more : List Move) : State :=
  { s with trace := s.trace ++ evs, pins := pins, env := { s.env with script := more } }

/-- An operation that has ended with `code`: ACTIVE is 0 and REQ, SEQ, POLLS and PEND hold no value
(spec/10_state.md R36, R39). -/
def State.ended (s : State) (code : Status) : State :=
  { s with code := code, active := false, req := none, seq := [], polls := none, pend := none }

/-- The shadow registers after a RAM write to a rectangle: its window, and the cursor at its origin
(spec/42_ram_addressing.md R180, R181, R185). -/
def shadowOf (r : Rect) : Shadow :=
  { winXS := xUnits r.startX, winXE := xUnits r.endX,
    winYS := BitVec.ofNat 16 r.startY, winYE := BitVec.ofNat 16 r.endY,
    curX := xUnits r.startX, curY := BitVec.ofNat 16 r.startY }

/-- Both chip-select and data/command High, as every data frame leaves them; RST_N as it was. -/
def Pins.afterData (p : Pins) : Pins := { p with csN := .high, dc := .high }

/-- Chip-select High and data/command Low, as every command frame leaves them; RST_N as it was. -/
def Pins.afterCommand (p : Pins) : Pins := { p with csN := .high, dc := .low }

/-! The sequence of an operation. -/

/-- The whole sequence of an instruction in a state: a host operation's body and its completion, or a bus command's
frames. Register operations issue no transaction (45_register_ops.md), and so does SET_LUT on LEGACY (R196). -/
def sequenceOf (i : Instr) (s : State) : List Item :=
  match i with
  | .init => initBody s
  | .sleep => sleepBody s
  | .setLut mode => if (profileOf s.rev).supportsLut then setLutBody mode s else [.finish]
  | .waitIdle => waitUntilIdle ++ [.finish]
  | .updateFrame a => updateFrameBody a s ++ [.finish]
  | .updatePartialFrame x y w h a => updatePartialBody x y w h a s ++ [.finish]
  | .updateColorFrame a b => updateColorBody a b s ++ [.finish]
  | .updateAchromaticFrame a => ramWriteA fullPanel a ++ [.finish]
  | .updateChromaticFrame a => ramWriteC fullPanel (chroma s.rev a) ++ [.finish]
  | .displayFrame => displayBody s ++ [.finish]
  | .updateAndDisplayFrame a => updateFrameBody a s ++ displayBody s ++ [.finish]
  | .clearFrame => clearBody s ++ [.finish]
  | .setBackgroundColor _ | .getBackgroundColor | .getWidth | .getHeight => []
  | .cmdDriverOutputControl n l f d => commandItems (.cmdDriverOutputControl n l f d)
  | .cmdDeepSleepMode c => commandItems (.cmdDeepSleepMode c)
  | .cmdDataEntryMode m y => commandItems (.cmdDataEntryMode m y)
  | .cmdSwReset => commandItems .cmdSwReset
  | .cmdTemperatureSensor => commandItems .cmdTemperatureSensor
  | .cmdMasterActivation => commandItems .cmdMasterActivation
  | .cmdDisplayUpdateControl1 => commandItems .cmdDisplayUpdateControl1
  | .cmdDisplayUpdateControl2 f => commandItems (.cmdDisplayUpdateControl2 f)
  | .cmdWriteRamBw b => commandItems (.cmdWriteRamBw b)
  | .cmdWriteRamRed b => commandItems (.cmdWriteRamRed b)
  | .cmdWriteLut b => commandItems (.cmdWriteLut b)
  | .cmdBorderWaveform b => commandItems (.cmdBorderWaveform b)
  | .cmdSetRamXWindow xs xe => commandItems (.cmdSetRamXWindow xs xe)
  | .cmdSetRamYWindow ys ye => commandItems (.cmdSetRamYWindow ys ye)
  | .cmdSetRamXCounter x => commandItems (.cmdSetRamXCounter x)
  | .cmdSetRamYCounter y => commandItems (.cmdSetRamYCounter y)

/-- The status of the first pre-check an operation fails in a state, if any (spec/60_exceptions.md R256). Bus commands have
no pre-check. -/
def preCheck (i : Instr) (s : State) : Option Status :=
  match i with
  | .sleep | .displayFrame | .clearFrame => checkReady s
  | .setLut _ => if (profileOf s.rev).supportsLut then checkReady s else none
  | .updateFrame a | .updateAchromaticFrame a | .updateChromaticFrame a | .updateAndDisplayFrame a =>
    firstFailed [checkReady s, checkLength a planeSize]
  | .updateColorFrame a b => firstFailed [checkReady s, checkLength a planeSize, checkLength b planeSize]
  | .updatePartialFrame x y w h a =>
    firstFailed [checkPartial s, checkReady s, checkGeometry x y w h, checkLength a (w.toNat * h.toNat / 8)]
  | .init | .waitIdle | .setBackgroundColor _ | .getBackgroundColor | .getWidth | .getHeight => none
  | .cmdDriverOutputControl _ _ _ _ | .cmdDeepSleepMode _ | .cmdDataEntryMode _ _ | .cmdSwReset => none
  | .cmdTemperatureSensor | .cmdMasterActivation | .cmdDisplayUpdateControl1 => none
  | .cmdDisplayUpdateControl2 _ | .cmdWriteRamBw _ | .cmdWriteRamRed _ | .cmdWriteLut _ => none
  | .cmdBorderWaveform _ | .cmdSetRamXWindow _ _ | .cmdSetRamYWindow _ _ => none
  | .cmdSetRamXCounter _ | .cmdSetRamYCounter _ => none

/-- The register operations (45_register_ops.md). -/
def isRegisterOp : Instr → Bool
  | .setBackgroundColor _ => true
  | .getBackgroundColor => true
  | .getWidth => true
  | .getHeight => true
  | _ => false

/-- The operations that need PSTATE = Ready on a revision (spec/60_exceptions.md R255). -/
def needsReady (rev : Rev) : Instr → Bool
  | .sleep => true
  | .setLut _ => (profileOf rev).supportsLut
  | .updateFrame _ => true
  | .updatePartialFrame _ _ _ _ _ => true
  | .updateColorFrame _ _ => true
  | .updateAchromaticFrame _ => true
  | .updateChromaticFrame _ => true
  | .displayFrame => true
  | .updateAndDisplayFrame _ => true
  | .clearFrame => true
  | _ => false

/-- The transactions of a sequence, in order. -/
def transactionsOf : List Item → List Transaction
  | [] => []
  | .issue t :: rest => t :: transactionsOf rest
  | _ :: rest => transactionsOf rest

/-- A transaction that the transport's moves answer; a `Delay` is answered Ok without one (spec/40_framer.md R121). -/
def Transaction.isAsked : Transaction → Bool
  | .delay _ => false
  | _ => true

/-- The event of a transaction answered Ok, a sample of BUSY being idle (Low on both profiles, spec/00_scope.md R10). -/
def idleEvent (t : Transaction) : Event :=
  match t with
  | .pinGet => { txn := .pinGet, answer := .level .low }
  | other => { txn := other, answer := .ok }

/-- `n` steps in a row, stopping at a fault or a refusal. -/
def runSteps : Nat → State → Host.Outcome State Fault Refusal
  | 0, s => .next s
  | n + 1, s =>
    match step s with
    | .next t => runSteps n t
    | .fault r => .fault r
    | .refused r => .refused r

/-- The operations that write controller RAM (spec/42_ram_addressing.md R182). -/
def writesRam : Instr → Bool
  | .updateFrame _ => true
  | .updatePartialFrame _ _ _ _ _ => true
  | .updateColorFrame _ _ => true
  | .updateAchromaticFrame _ => true
  | .updateChromaticFrame _ => true
  | .updateAndDisplayFrame _ => true
  | .clearFrame => true
  | _ => false

/-- A busy sample and the poll interval after it, `n` times (spec/40_framer.md R130). -/
def evBusy (us : Nat) (n : Nat) : List Event := (List.replicate n (evSample .high ++ evDelay us)).flatten

/-- A byte whose set bits are exactly those at the positions listed. -/
def holdsExactly (v : Byte) (bits : List (Fin 8)) : Prop := ∀ k : Nat, v.getLsbD k = true ↔ ∃ b ∈ bits, b.val = k

/-- The positions of `S_DISPLAY` (spec/41_encoders.md R168, R169). -/
def displayBits (p : Params) : List (Fin 8) :=
  [p.bitEnableClock, p.bitEnableAnalog, p.bitLoadLut, p.bitLoadTemperature, p.bitTriggerDisplay, p.bitDisableAnalog,
    p.bitDisableClock]

/-- The positions of `S_SLEEP` (spec/41_encoders.md R168, R169). -/
def sleepBits (p : Params) : List (Fin 8) :=
  [p.bitEnableClock, p.bitEnableAnalog, p.bitDisableAnalog, p.bitDisableClock]

/-- A stretch without a busy poll. -/
def pollFree (items : List Item) : Prop := .startPoll ∉ items ∧ .issue .pinGet ∉ items

/-- A RAM write whose one busy poll stands directly before the two counter commands (spec/42_ram_addressing.md R181,
spec/70_reset_and_hazards.md R287). -/
def polledWrite (items : List Item) : Prop :=
  ∃ before x y after, pollFree before ∧ pollFree after
    ∧ items = before ++ waitUntilIdle ++ commandItems (.cmdSetRamXCounter x) ++ commandItems (.cmdSetRamYCounter y) ++ after

/-! What a sequence leaves in the registers that its own items write. -/

/-- The levels on the pins after a sequence whose answers are Ok. -/
def pinsAfter : List Item → Pins → Pins
  | [], p => p
  | .issue (.pinSet q l) :: rest, p => pinsAfter rest (p.set q l)
  | _ :: rest, p => pinsAfter rest p

/-- The shadow registers after a sequence. -/
def shadowAfter : List Item → Shadow → Shadow
  | [], sh => sh
  | .latch w :: rest, sh => shadowAfter rest (sh.put w)
  | _ :: rest, sh => shadowAfter rest sh

/-- DUC2_ACC after a sequence. -/
def duc2After : List Item → Byte → Byte
  | [], v => v
  | .compose w :: rest, _ => duc2After rest w
  | _ :: rest, v => duc2After rest v

/-- What each operation has left in the registers that its rule lists, when it has completed: PSTATE, REFRESH, DUC2_ACC and
the shadow registers (43_lifecycle.md, 44_frame_ops.md, "State written"). The register operations are in no step between two
others, and a bus command is no operation. -/
def operationEffect (i : Instr) (s : State) : State :=
  match i with
  | .init => { s with pstate := .ready, shadow := shadowOf fullPanel }
  | .sleep =>
    { s with pstate := .sleeping, duc2Acc := if s.rev = .v4 then composeDuc2 s.params sleepActions else s.duc2Acc }
  | .setLut mode => { s with refresh := mode }
  | .displayFrame => { s with duc2Acc := if s.rev = .v4 then composeDuc2 s.params displayActions else s.duc2Acc }
  | .updateFrame _ | .updateColorFrame _ _ | .updateAchromaticFrame _ | .updateChromaticFrame _ | .clearFrame =>
    { s with shadow := shadowOf fullPanel }
  | .updatePartialFrame x y w h _ => { s with shadow := shadowOf (partialRect x y w h) }
  | .updateAndDisplayFrame _ =>
    { s with
      shadow := shadowOf fullPanel
      duc2Acc := if s.rev = .v4 then composeDuc2 s.params displayActions else s.duc2Acc }
  | .waitIdle | .setBackgroundColor _ | .getBackgroundColor | .getWidth | .getHeight => s
  | .cmdDriverOutputControl _ _ _ _ | .cmdDeepSleepMode _ | .cmdDataEntryMode _ _ | .cmdSwReset => s
  | .cmdTemperatureSensor | .cmdMasterActivation | .cmdDisplayUpdateControl1 => s
  | .cmdDisplayUpdateControl2 _ | .cmdWriteRamBw _ | .cmdWriteRamRed _ | .cmdWriteLut _ => s
  | .cmdBorderWaveform _ | .cmdSetRamXWindow _ _ | .cmdSetRamYWindow _ _ => s
  | .cmdSetRamXCounter _ | .cmdSetRamYCounter _ => s

/-! The invariant between two steps. -/

/-- While ACTIVE = 0, REQ, SEQ, POLLS and PEND hold no value (spec/10_state.md R36, R39). -/
def State.idleIsEmpty (s : State) : Prop :=
  s.active = false → s.req = none ∧ s.seq = [] ∧ s.polls = none ∧ s.pend = none

/-- The registers hold what the items already done have written into them: the shadow registers from their latches, DUC2_ACC
from its composition. -/
def State.written (s : State) (done : List Item) : Prop :=
  ∃ sh v, s.shadow = shadowAfter done sh ∧ s.duc2Acc = duc2After done v

/-- The operation that is in progress, as REQ holds it (spec/10_state.md R36(a)). -/
def State.inOperation (s : State) (i : Instr) : Prop := ∃ r, s.req = some r ∧ r.operation = some i

/-- Between two steps an engine in an operation waits for exactly one transaction of that operation's sequence, and SEQ is
what follows it: either the transaction is one that the transport has not answered, or it is the poll interval after a busy
sample, with the next sample to come and the deadline not reached (spec/10_state.md R36, spec/40_framer.md R130). What it has done of
the sequence stands in the registers. DESIGN CHOICE: where a step ends, and so that one of the two is always pending (log 5), and
SEQ as the list of what is left (log 7). -/
def State.onTrack (s : State) : Prop :=
  s.active = true →
    ∃ i done, s.inOperation i ∧ isRegisterOp i = false ∧ s.written done
      ∧ ((∃ t, s.pend = some t ∧ t.isAsked = true ∧ sequenceOf i s = done ++ .issue t :: s.seq)
        ∨ (∃ n, s.pend = some (.delay s.params.pollIntervalUs) ∧ sequenceOf i s = done ++ s.seq
            ∧ s.seq.head? = some (.issue .pinGet) ∧ s.polls = some n
            ∧ limitReached s.params.busyPollLimit n = false))

/-- Only a V4 engine ever leaves Full refresh or composes a DUC2 byte (spec/10_state.md R25, R27). -/
def State.legacyRegisters (s : State) : Prop :=
  s.rev = .legacy → s.refresh = .fullRefresh ∧ s.duc2Acc = 0x00#8

/-- An operation that needs Ready is in progress only while PSTATE = Ready (spec/60_exceptions.md R255). -/
def State.readyWhileNeeded (s : State) : Prop :=
  ∀ i, s.active = true → s.inOperation i → needsReady s.rev i = true → s.pstate = .ready

/-- ERR_INFO fits its width (spec/10_state.md R31). -/
def State.errInfoFits (s : State) : Prop := s.errInfo < 2 ^ s.params.errInfoWidth

/-- The invariant. -/
def State.Inv (s : State) : Prop :=
  s.idleIsEmpty ∧ s.onTrack ∧ s.legacyRegisters ∧ s.readyWhileNeeded ∧ s.errInfoFits

end Sys2Proof.Machine
end

