-- ==== Sys2Proof/Certificates/Slice0/Obligations.lean ====
section
/-! DEFINITION. The statements for the provers. A statement about the transport's answers holds for every script of
moves that meets its premise (spec/40_framer.md R121); one about a parameter, for every value of it. -/

open Sys2Proof Sys2Proof.Machine

/-! ## Encoding -/

/-- Decoding an encoded host request gives back the operation, every operand, and whatever follows the request
(R90, R97). -/
def Obligations.RequestRoundTrip : Prop :=
  ∀ (i : Instr) (rest : List Byte), i.isBus = false → i.wellFormed = true →
    decodeRequest (encode i ++ rest) = .ok (i, rest)

/-- The bus commands and their bytes correspond one to one: encoding then decoding gives the command, and whatever decodes
is the encoding of the command it decodes to (R100, R102). -/
def Obligations.CommandBytesOneToOne : Prop :=
  (∀ c : Instr, c.isBus = true → c.wellFormed = true → decodeCommand (encode c) = .ok c)
  ∧ (∀ (bytes : List Byte) (c : Instr), decodeCommand bytes = .ok c →
      encode c = bytes ∧ c.isBus = true ∧ c.wellFormed = true)

/-- A descriptor that differs only in bits its operation does not read decodes to the same operation (R94, R95): RSVD for
every operation, `IMM8[7:1]` for SET_LUT, all of IMM8 but for SET_LUT and SET_BACKGROUND_COLOR, the rectangle but for
UPDATE_PARTIAL_FRAME, LEN_A for an operation without a stream, LEN_B for all but UPDATE_COLOR_FRAME. -/
def Obligations.IgnoredBitsChangeNothing : Prop :=
  ∀ (d d' : Descriptor) (stream : List Byte), d.op = d'.op →
    (d.op.toNat = 0x03 → d.imm8.toNat % 2 = d'.imm8.toNat % 2) →
    (d.op.toNat = 0x20 → d.imm8 = d'.imm8) →
    (d.op.toNat = 0x11 → d.x = d'.x ∧ d.y = d'.y ∧ d.w = d'.w ∧ d.h = d'.h) →
    (d.op.toNat ∈ [0x10, 0x11, 0x12, 0x13, 0x14, 0x19] → d.lenA = d'.lenA) →
    (d.op.toNat = 0x12 → d.lenB = d'.lenB) →
    decodeDescriptor d stream = decodeDescriptor d' stream

/-- Words written out from the spec's encodings decode to what they stand for (R90, R93, R100; the descriptors are those of
95_test_vectors.md P1 to P4). -/
def Obligations.SpecWordsDecode : Prop :=
  decodeRequest [0x01#8, 0#8, 0#8, 0#8, 0#8, 0#8, 0#8, 0#8, 0#8, 0#8, 0#8, 0#8, 0#8, 0#8, 0#8, 0#8] = .ok (.init, [])
  ∧ decodeRequest [0x03#8, 0x01#8, 0#8, 0#8, 0#8, 0#8, 0#8, 0#8, 0#8, 0#8, 0#8, 0#8, 0#8, 0#8, 0#8, 0#8]
      = .ok (.setLut .partialRefresh, [])
  ∧ decodeRequest [0x11#8, 0#8, 0#8, 0#8, 0x08#8, 0#8, 0x0A#8, 0#8, 0x10#8, 0#8, 0x02#8, 0#8, 0x04#8, 0#8, 0#8, 0#8,
        0x11#8, 0x22#8, 0x33#8, 0x44#8]
      = .ok (.updatePartialFrame 8#16 10#16 16#16 2#16 [0x11#8, 0x22#8, 0x33#8, 0x44#8], [])
  ∧ decodeRequest [0x20#8, 0xFF#8, 0#8, 0#8, 0#8, 0#8, 0#8, 0#8, 0#8, 0#8, 0#8, 0#8, 0#8, 0#8, 0#8, 0#8]
      = .ok (.setBackgroundColor 0xFF#8, [])
  ∧ decodeCommand [0x01#8, 0xF9#8, 0x00#8, 0x00#8] = .ok (.cmdDriverOutputControl 249#16 true true true)
  ∧ decodeCommand [0x11#8, 0x03#8] = .ok (.cmdDataEntryMode 3#2 false)
  ∧ decodeCommand [0x45#8, 0x00#8, 0x00#8, 0xF9#8, 0x00#8] = .ok (.cmdSetRamYWindow 0#16 249#16)

/-! ## Steps -/

/-- An idle engine to which the host presents a well-formed request runs its operation, the request being taken (R266). -/
def Obligations.StepRunsTheRequest : Prop :=
  ∀ (i : Instr) (rest : List HostMove) (s : State), i.isBus = false → i.wellFormed = true → s.active = false →
    s.host = .request (encode i) :: rest → step s = exec i { s with host := rest }

/-- An engine in an operation whose sequence continues with a bus command, and which waits for nothing, runs that command
and then goes on with what is left, unless the command stopped at an unanswered transaction or ended the operation. -/
def Obligations.StepRunsTheNextCommand : Prop :=
  ∀ (c : Instr) (rest : List Item) (s : State), c.isBus = true → c.wellFormed = true → s.active = true → s.pend = none →
    s.seq = commandItems c ++ rest →
    ∃ t, exec c { s with seq := rest } = .next t
      ∧ step s = .next (if t.active = true ∧ t.pend = none then resume t else t)

/-- After reset the engine waits with the port ready: with no move of the host, a step of an idle engine changes nothing, so
it issues no transaction (R123, R281). -/
def Obligations.IdleEngineWaits : Prop :=
  ∀ s : State, s.active = false → s.host = [] → step s = .next s

/-- A transport that makes no move leaves the engine waiting for ever with ACTIVE = 1 (R122, I2): the step changes
nothing. -/
def Obligations.SilentTransportKeepsTheEngineWaiting : Prop :=
  ∀ (s : State) (t : Transaction), s.active = true → s.pend = some t → t.isAsked = true → s.env.script = [] →
    s.env.loop = [] → step s = .next s

/-- While ACTIVE = 1 the request port is not ready: no host operation is accepted, and no step takes a move of the host's
(R266). -/
def Obligations.NoRequestWhileActive : Prop :=
  ∀ s : State, s.active = true →
    (∀ i : Instr, i.isBus = false → exec i s = .next s) ∧ (∃ t, step s = .next t ∧ t.host = s.host)

/-- An unassigned OP completes at once with ILLEGAL_OPERATION, with no event and no other register changed (R96, R271). -/
def Obligations.UnassignedOpIsIllegal : Prop :=
  ∀ (s : State) (op : Byte) (others : List Byte) (rest : List HostMove), s.active = false → others.length = 15 →
    (op.toNat = 0x00 ∨ (0x05 ≤ op.toNat ∧ op.toNat ≤ 0x0F) ∨ (0x15 ≤ op.toNat ∧ op.toNat ≤ 0x17)
      ∨ (0x1B ≤ op.toNat ∧ op.toNat ≤ 0x1F) ∨ 0x24 ≤ op.toNat) →
    s.host = .request (op :: others) :: rest →
    step s = .next ({ s with host := rest }.ended .illegalOperation)

/-! ## Reset -/

/-- Engine reset gives every register its reset value, for every strap and every parameters (R280). -/
def Obligations.ResetValuesOfTheWindow : Prop :=
  ∀ (rev : Rev) (p : Params),
    (∀ n, windowRead (State.resetOf rev p) n =
      if n = 0x0 then (if rev = .v4 then 1 else 0) else if n = 0x3 then p.bgReset.toNat else if n = 0xE then 0b101 else 0)
    ∧ (State.resetOf rev p).req = none ∧ (State.resetOf rev p).seq = [] ∧ (State.resetOf rev p).polls = none
    ∧ (State.resetOf rev p).pend = none

/-- The register window in every state, ACTIVE or not (R37): which register each number reads, by its value's bits (R21, R23,
R25 for the names' numbers); STATUS reads as CODE in bits 2:0, zeros in bits 6:3 and ACTIVE in bit 7 (R30); PINS has CS_N, DC
and RST_N in bits 0, 1 and 2, 1 for High; and every number from 0xF up reads as 0 (I12). -/
def Obligations.StatusAndReservedNumbers : Prop :=
  ∀ s : State,
    (statusByte s).extractLsb' 0 3 = (match s.code with
      | .ok => 0#3 | .busError => 1#3 | .invalidBufferLength => 2#3 | .invalidGeometry => 3#3 | .unsupported => 4#3
      | .invalidState => 5#3 | .panelTimeout => 6#3 | .illegalOperation => 7#3)
    ∧ (statusByte s).extractLsb' 3 4 = 0#4 ∧ (statusByte s).getLsbD 7 = s.active
    ∧ windowRead s 0x0 = (match s.rev with | .legacy => 0 | .v4 => 1)
    ∧ windowRead s 0x1 = (match s.pstate with | .uninitialized => 0 | .ready => 1 | .sleeping => 2)
    ∧ windowRead s 0x2 = (match s.refresh with | .fullRefresh => 0 | .partialRefresh => 1)
    ∧ windowRead s 0x3 = s.bg.toNat ∧ windowRead s 0x4 = s.duc2Acc.toNat
    ∧ windowRead s 0x5 = s.shadow.winXS.toNat ∧ windowRead s 0x6 = s.shadow.winXE.toNat
    ∧ windowRead s 0x7 = s.shadow.winYS.toNat ∧ windowRead s 0x8 = s.shadow.winYE.toNat
    ∧ windowRead s 0x9 = s.shadow.curX.toNat ∧ windowRead s 0xA = s.shadow.curY.toNat
    ∧ windowRead s 0xB = (statusByte s).toNat ∧ windowRead s 0xC = s.errInfo ∧ windowRead s 0xD = s.result.toNat
    ∧ ((windowRead s 0xE).testBit 0 = true ↔ s.pins.csN = .high) ∧ ((windowRead s 0xE).testBit 1 = true ↔ s.pins.dc = .high)
    ∧ ((windowRead s 0xE).testBit 2 = true ↔ s.pins.rstN = .high) ∧ windowRead s 0xE < 8
    ∧ ∀ n, 0xF ≤ n → windowRead s n = 0

/-- Engine reset while idle, and engine reset during an operation: every register takes its reset value, the strap and the
parameters stay (R280, R284); an operation ends at once, in a `Delay` too, no completion status is written for it, and the
transaction in flight is left in doubt in the trace (R283; log 15 and log 20 for the form of the reset, log 6 for the trace that it keeps). -/
def Obligations.EngineResetResetsEveryRegister : Prop :=
  ∀ s : State,
    (∀ rest : List HostMove, s.active = false → s.host = .reset :: rest →
      step s = .next { State.resetOf s.rev s.params with env := s.env, host := rest, trace := s.trace })
    ∧ (∀ (t : Transaction) (env : Env), s.active = true → s.pend = some t → s.env.next = some (.reset, env) →
      step s = .next { State.resetOf s.rev s.params with
        env := env, host := s.host, trace := s.trace ++ [{ txn := t, answer := .cut }] })

/-! ## Lifecycle operations -/

/-- INIT, every answer Ok and every busy sample idle: the events the spec prints, PSTATE = Ready, the full-panel window and
the cursor at the origin, and nothing else changed (R190). Of the 92 events two are delays, which need no answer. -/
def Obligations.InitMakesReady : Prop :=
  ∀ (s : State) (more : List Move), s.active = false → s.hearsIdle 90 more →
    exec .init s = .next { (s.after
        (evPin .rstN .low ++ evDelay s.params.resetLowUs ++ evPin .rstN .high ++ evDelay s.params.resetHighUs
          ++ evWaitOk ++ evCmd 0x12#8 ++ evWaitOk
          ++ evCmd 0x01#8 ++ evDat [0xF9#8, 0x00#8, 0x00#8] ++ evCmd 0x11#8 ++ evDat [0x03#8]
          ++ evCmd 0x44#8 ++ evDat [0x00#8, 0x0F#8] ++ evCmd 0x45#8 ++ evDat [0x00#8, 0x00#8, 0xF9#8, 0x00#8]
          ++ evWaitOk ++ evCmd 0x4E#8 ++ evDat [0x00#8] ++ evCmd 0x4F#8 ++ evDat [0x00#8, 0x00#8]
          ++ evCmd 0x3C#8 ++ evDat [s.params.initBorder] ++ evCmd 0x18#8 ++ evDat [0x80#8]
          ++ evCmd 0x21#8 ++ evDat [0x80#8, 0x80#8] ++ evWaitOk)
        { csN := .high, dc := .high, rstN := .high } more).ended .ok with
      pstate := .ready
      shadow := { winXS := 0#8, winXE := 15#8, winYS := 0#16, winYE := 249#16, curX := 0#8, curY := 0#16 } }

/-- SLEEP from Ready: on V4 the DUC2 byte and the activation come between the poll and the deep-sleep command, on LEGACY
they do not (R194). The byte has exactly the four bits of S_SLEEP (R168, R169). -/
def Obligations.SleepMakesSleeping : Prop :=
  ∀ (s : State) (more : List Move), s.active = false → s.pstate = .ready →
    holdsExactly (composeDuc2 s.params sleepActions) (sleepBits s.params)
    ∧ (s.rev = .v4 → s.hearsIdle 21 more →
      exec .sleep s = .next { (s.after
          (evWaitOk ++ evCmd 0x22#8 ++ evDat [composeDuc2 s.params sleepActions] ++ evCmd 0x20#8
            ++ evCmd 0x10#8 ++ evDat [s.params.deepSleepCode]) s.pins.afterData more).ended .ok with
        pstate := .sleeping
        duc2Acc := composeDuc2 s.params sleepActions })
    ∧ (s.rev = .legacy → s.hearsIdle 9 more →
      exec .sleep s = .next { (s.after (evWaitOk ++ evCmd 0x10#8 ++ evDat [s.params.deepSleepCode])
          s.pins.afterData more).ended .ok with
        pstate := .sleeping })

/-- SET_LUT: on V4 from Ready the LUT is written and then REFRESH takes the mode: while one of the `7 + LUT_LEN` transactions of
the 0x32 frames is still to be answered, the last one too, an `Err(e)` to it ends the operation with REFRESH as it was. On LEGACY,
in any PSTATE, SET_LUT completes with no event and no register change (R196). -/
def Obligations.SetLutSelectsTheRefreshMode : Prop :=
  ∀ (s : State) (mode : RefreshMode) (more : List Move), s.active = false →
    (s.rev = .v4 → s.pstate = .ready → s.params.wf = true → s.hearsOk (7 + s.params.lutLen) more →
      exec (.setLut mode) s = .next { (s.after
          (evCmd 0x32#8 ++ evDat (if mode = .partialRefresh then s.params.lutPartial else s.params.lutFull))
          s.pins.afterData more).ended .ok with refresh := mode })
    ∧ (∀ (ms : List Move) (e : Nat), s.rev = .v4 → s.pstate = .ready → s.params.wf = true →
      s.env.script = ms ++ .err e :: more → (∀ m ∈ ms, ∃ l, m = .ok l) → ms.length < 7 + s.params.lutLen →
      ∃ t, exec (.setLut mode) s = .next t ∧ t.refresh = s.refresh ∧ t.pstate = s.pstate ∧ t.code = .busError
        ∧ t.active = false)
    ∧ (s.rev = .legacy → exec (.setLut mode) s = .next (s.ended .ok))

/-- WAIT_IDLE, in any PSTATE, with an idle first sample: one event, and STATUS alone is written (R198). -/
def Obligations.WaitIdleCompletes : Prop :=
  ∀ (s : State) (more : List Move), s.active = false → s.hearsIdle 1 more →
    exec .waitIdle s = .next ((s.after evWaitOk s.pins more).ended .ok)

/-! ## The busy poll -/

/-- `k` busy samples before the idle one cost `k` poll intervals, if the deadline is not reached: WAIT_IDLE completes with
the trace `(R(BUSY)=H D(POLL_INTERVAL_US))^k R(BUSY)=L` (R130). -/
def Obligations.PollRepeatsUntilIdle : Prop :=
  ∀ (s : State) (k : Nat) (more : List Move) (host : List HostMove), s.active = false →
    s.host = .request (encode .waitIdle) :: host →
    s.env.script = List.replicate k (.ok .high) ++ .ok .low :: more →
    (∀ n, s.params.busyPollLimit = some n → k < n) →
    runSteps (k + 1) s = .next { (s.after (evBusy s.params.pollIntervalUs k ++ evWaitOk) s.pins more).ended .ok with
      host := host }

/-- With `BUSY_POLL_LIMIT = n`, the n-th busy sample raises PANEL_TIMEOUT, and the interval after it is not issued (R130,
R254). -/
def Obligations.PollTimesOutAtTheLimit : Prop :=
  ∀ (s : State) (n : Nat) (more : List Move) (host : List HostMove), s.active = false →
    s.host = .request (encode .waitIdle) :: host → s.params.busyPollLimit = some (n + 1) →
    s.env.script = List.replicate (n + 1) (.ok .high) ++ more →
    runSteps (n + 1) s = .next { (s.after (evBusy s.params.pollIntervalUs n ++ evSample .high) s.pins more).ended
        .panelTimeout with host := host }

/-- With `BUSY_POLL_LIMIT = NONE` and BUSY held at the active level, WAIT_IDLE never completes: after any number of steps
ACTIVE is 1 and only the samples and the intervals have been added (R258, I7). -/
def Obligations.StuckBusyHangsForEver : Prop :=
  ∀ (s : State) (host : List HostMove), s.active = false → s.host = .request (encode .waitIdle) :: host →
    s.params.busyPollLimit = none → s.env.script = [] → s.env.loop = [.ok .high] →
    ∀ n, ∃ t, runSteps (n + 1) s = .next t ∧ t.active = true ∧ t.code = s.code ∧ t.host = host
      ∧ t.trace = s.trace ++ evBusy s.params.pollIntervalUs n ++ evSample .high

/-- A busy sample of any operation's poll, after `k` busy ones, when the engine has been in the poll interval, and when it has
waited for the answer to the sample itself (the first one of a poll too, with `k` = 0): it reaches the deadline, or is counted
and waits another interval; at the deadline INIT and SLEEP also lose PSTATE (R130, R131, R24, R252). -/
def Obligations.BusySampleCountsTowardsTheDeadline : Prop :=
  ∀ (s : State) (k : Nat) (rest : List Item) (more : List Move), s.active = true → s.polls = some k →
    s.env.script = .ok .high :: more →
    let counted := fun heard : State =>
      (if ∃ n, s.params.busyPollLimit = some n ∧ n ≤ k + 1 then
        .next { heard.ended .panelTimeout with
          pstate := if s.req.map Request.op ∈ [some 0x01#8, some 0x02#8] then .uninitialized else s.pstate }
      else
        .next { heard with
          polls := some (k + 1), pend := some (.delay s.params.pollIntervalUs), seq := .issue .pinGet :: rest } :
        Host.Outcome State Fault Refusal)
    (∀ us, s.pend = some (.delay us) → s.seq = .issue .pinGet :: rest →
      step s = counted (s.after (evDelay us ++ evSample .high) s.pins more))
    ∧ (s.pend = some .pinGet → s.seq = rest → step s = counted (s.after (evSample .high) s.pins more))

/-! ## Frame operations -/

/-- UPDATE_FRAME: bank A, and in Full mode the mirror of bank C to BG (R210). -/
def Obligations.UpdateFrameWritesAndMirrors : Prop :=
  ∀ (s : State) (a : List Byte) (more : List Move), s.active = false → s.pstate = .ready → a.length = 4000 →
    (s.refresh = .fullRefresh → s.hearsIdle 8090 more →
      exec (.updateFrame a) s = .next { (s.after
          (evRamWrite 0x24#8 fullPanel a ++ evRamWrite 0x26#8 fullPanel (List.replicate 4000 s.bg))
          s.pins.afterData more).ended .ok with shadow := shadowOf fullPanel })
    ∧ (s.refresh = .partialRefresh → s.hearsIdle 4045 more →
      exec (.updateFrame a) s = .next { (s.after (evRamWrite 0x24#8 fullPanel a) s.pins.afterData more).ended .ok with
        shadow := shadowOf fullPanel })

/-- UPDATE_PARTIAL_FRAME with a valid rectangle and the length it requires (R212, R184). -/
def Obligations.PartialFrameWritesItsRectangle : Prop :=
  ∀ (s : State) (x y w h : Half) (a : List Byte) (more : List Move), s.active = false → s.rev = .v4 →
    s.pstate = .ready → 1 ≤ w.toNat → 1 ≤ h.toNat → x.toNat + w.toNat ≤ 122 → y.toNat + h.toNat ≤ 250 →
    8 ≤ w.toNat * h.toNat → a.length = w.toNat * h.toNat / 8 →
    let rect : Rect := { startX := x.toNat, startY := y.toNat, endX := x.toNat + w.toNat - 1, endY := y.toNat + h.toNat - 1 }
    (s.refresh = .fullRefresh → s.hearsIdle (90 + 2 * a.length) more →
      exec (.updatePartialFrame x y w h a) s = .next { (s.after
          (evRamWrite 0x24#8 rect a ++ evRamWrite 0x26#8 rect (List.replicate a.length s.bg))
          s.pins.afterData more).ended .ok with shadow := shadowOf rect })
    ∧ (s.refresh = .partialRefresh → s.hearsIdle (45 + a.length) more →
      exec (.updatePartialFrame x y w h a) s = .next { (s.after (evRamWrite 0x24#8 rect a) s.pins.afterData more).ended .ok
        with shadow := shadowOf rect })

/-- The three-colour operations: both planes, bank A alone, bank C alone; chromatic bytes complemented on LEGACY and sent
as they are on V4; REFRESH is not consulted (R214, R216, R218, R65). -/
def Obligations.ColorFramesWriteTheirBanks : Prop :=
  ∀ (s : State) (a b : List Byte) (more : List Move), s.active = false → s.pstate = .ready → a.length = 4000 →
    b.length = 4000 →
    let sent := fun c : List Byte => if s.rev = .legacy then c.map (fun v => ~~~v) else c
    (s.hearsIdle 8090 more →
      exec (.updateColorFrame a b) s = .next { (s.after
          (evRamWrite 0x24#8 fullPanel a ++ evRamWrite 0x26#8 fullPanel (sent b)) s.pins.afterData more).ended .ok with
        shadow := shadowOf fullPanel })
    ∧ (s.hearsIdle 4045 more →
      exec (.updateAchromaticFrame a) s = .next { (s.after (evRamWrite 0x24#8 fullPanel a)
          s.pins.afterData more).ended .ok with shadow := shadowOf fullPanel })
    ∧ (s.hearsIdle 4045 more →
      exec (.updateChromaticFrame b) s = .next { (s.after (evRamWrite 0x26#8 fullPanel (sent b))
          s.pins.afterData more).ended .ok with shadow := shadowOf fullPanel })

/-- DISPLAY_FRAME: the DUC2 byte on V4 only, then the activation and a poll (R220). The byte has exactly the seven bits of
S_DISPLAY (R168, R169). -/
def Obligations.DisplayFrameActivates : Prop :=
  ∀ (s : State) (more : List Move), s.active = false → s.pstate = .ready →
    holdsExactly (composeDuc2 s.params displayActions) (displayBits s.params)
    ∧ (s.rev = .v4 → s.hearsIdle 13 more →
      exec .displayFrame s = .next { (s.after
          (evCmd 0x22#8 ++ evDat [composeDuc2 s.params displayActions] ++ evCmd 0x20#8 ++ evWaitOk)
          s.pins.afterCommand more).ended .ok with duc2Acc := composeDuc2 s.params displayActions })
    ∧ (s.rev = .legacy → s.hearsIdle 5 more →
      exec .displayFrame s = .next ((s.after (evCmd 0x20#8 ++ evWaitOk) s.pins.afterCommand more).ended .ok))

/-- UPDATE_AND_DISPLAY_FRAME leaves exactly the state that UPDATE_FRAME and then DISPLAY_FRAME leave one after the other: same
events, same registers; and if the update part ends in an error, it ends there too, before any display event (R222). The
operations may take any number of steps, so busy samples, waits and errors are among the answers (log 5 for what one step
is); no engine reset comes, and the host presents nothing else meanwhile. -/
def Obligations.UpdateAndDisplayIsTheTwoInTurn : Prop :=
  ∀ (s s₁ t : State) (a : List Byte) (n : Nat), s.active = false → s.host = [] → s.noReset →
    exec (.updateFrame a) s = .next s₁ → runSteps n s₁ = .next t → t.active = false →
    ∃ v, exec (.updateAndDisplayFrame a) s = .next v
      ∧ (t.code ≠ .ok → runSteps n v = .next t)
      ∧ (∀ (t₁ u : State) (m : Nat), t.code = .ok → exec .displayFrame t = .next t₁ → runSteps m t₁ = .next u →
          u.active = false → runSteps (n + m) v = .next u)

/-- UPDATE_AND_DISPLAY_FRAME, every answer Ok and every busy sample idle, completes on either revision and in either refresh
mode (R222). The DUC2 byte has exactly the seven bits of S_DISPLAY (R168, R169). -/
def Obligations.UpdateAndDisplayCompletes : Prop :=
  ∀ (s : State) (a : List Byte) (more : List Move), s.active = false → s.pstate = .ready → a.length = 4000 →
    s.hearsIdle ((if s.refresh = .fullRefresh then 8090 else 4045) + if s.rev = .v4 then 13 else 5) more →
    let mirror := if s.refresh = .fullRefresh then evRamWrite 0x26#8 fullPanel (List.replicate 4000 s.bg) else []
    let duc2 := if s.rev = .v4 then evCmd 0x22#8 ++ evDat [composeDuc2 s.params displayActions] else []
    holdsExactly (composeDuc2 s.params displayActions) (displayBits s.params)
    ∧ exec (.updateAndDisplayFrame a) s = .next { (s.after
        (evRamWrite 0x24#8 fullPanel a ++ mirror ++ duc2 ++ evCmd 0x20#8 ++ evWaitOk)
        s.pins.afterCommand more).ended .ok with
      shadow := shadowOf fullPanel
      duc2Acc := if s.rev = .v4 then composeDuc2 s.params displayActions else s.duc2Acc }

/-- CLEAR_FRAME fills bank A and bank C with BG, twice each in Full mode (R224); fills are never inverted (R65). -/
def Obligations.ClearFrameFillsBothBanks : Prop :=
  ∀ (s : State) (more : List Move), s.active = false → s.pstate = .ready →
    let pass := evRamWrite 0x24#8 fullPanel (List.replicate 4000 s.bg)
      ++ evRamWrite 0x26#8 fullPanel (List.replicate 4000 s.bg)
    (s.refresh = .fullRefresh → s.hearsIdle 16180 more →
      exec .clearFrame s = .next { (s.after (pass ++ pass) s.pins.afterData more).ended .ok with
        shadow := shadowOf fullPanel })
    ∧ (s.refresh = .partialRefresh → s.hearsIdle 8090 more →
      exec .clearFrame s = .next { (s.after pass s.pins.afterData more).ended .ok with shadow := shadowOf fullPanel })

/-! ## Register operations -/

/-- The register operations: one register written, no event, in every PSTATE (R240, R242, R244, R246). -/
def Obligations.RegisterOperationsWriteOneRegister : Prop :=
  ∀ s : State, s.active = false →
    (∀ c : Byte, exec (.setBackgroundColor c) s = .next { s.ended .ok with bg := c })
    ∧ exec .getBackgroundColor s = .next { s.ended .ok with result := BitVec.zeroExtend 16 s.bg }
    ∧ exec .getWidth s = .next { s.ended .ok with result := 0x007A#16 }
    ∧ exec .getHeight s = .next { s.ended .ok with result := 0x00FA#16 }

/-! ## Bus commands -/

/-- The bus commands without a shadow register, emitted inside an operation, every answer Ok: a command frame, a data frame
when there is a payload, and no register changed but the pin levels (R126, R127, R140 to R151). 0x22 and 0x32 are never emitted
on LEGACY (R147, R150): that they send the same frames there is the model's choice (log 24). -/
def Obligations.PlainCommandsSendTheirFrames : Prop :=
  ∀ (s : State) (more : List Move), s.active = true → s.pend = none →
    let sent := fun (op : Byte) (payload : List Byte) =>
      (Host.Outcome.next (s.after (evCmd op ++ evDat payload) s.pins.afterData more) : Host.Outcome State Fault Refusal)
    (∀ (n : Half) (linear firstG0 increasing : Bool), s.hearsOk 10 more →
      exec (.cmdDriverOutputControl n linear firstG0 increasing) s =
        sent 0x01#8 [lo8 n.toNat, hi8 n.toNat,
          (if increasing then 0#8 else 1#8) ||| (if firstG0 then 0#8 else 2#8) ||| (if linear then 0#8 else 4#8)])
    ∧ (∀ c : Byte, s.hearsOk 8 more → exec (.cmdDeepSleepMode c) s = sent 0x10#8 [c])
    ∧ (∀ (m : BitVec 2) (y : Bool), s.hearsOk 8 more →
      exec (.cmdDataEntryMode m y) s = sent 0x11#8 [BitVec.zeroExtend 8 m ||| (if y then 4#8 else 0#8)])
    ∧ (s.hearsOk 4 more → exec .cmdSwReset s = .next (s.after (evCmd 0x12#8) s.pins.afterCommand more))
    ∧ (s.hearsOk 8 more → exec .cmdTemperatureSensor s = sent 0x18#8 [0x80#8])
    ∧ (s.hearsOk 4 more → exec .cmdMasterActivation s = .next (s.after (evCmd 0x20#8) s.pins.afterCommand more))
    ∧ (s.hearsOk 9 more → exec .cmdDisplayUpdateControl1 s = sent 0x21#8 [0x80#8, 0x80#8])
    ∧ (∀ f : Byte, s.hearsOk 8 more → exec (.cmdDisplayUpdateControl2 f) s = sent 0x22#8 [f])
    ∧ (∀ d : List Byte, d ≠ [] → s.hearsOk (7 + d.length) more →
      exec (.cmdWriteRamBw d) s = sent 0x24#8 d ∧ exec (.cmdWriteRamRed d) s = sent 0x26#8 d
        ∧ exec (.cmdWriteLut d) s = sent 0x32#8 d)
    ∧ (∀ b : Byte, s.hearsOk 8 more → exec (.cmdBorderWaveform b) s = sent 0x3C#8 [b])

/-- The four window and cursor commands, every answer Ok: their frames, and then their shadow registers (R152 to R155,
R133). -/
def Obligations.AddressCommandsWriteTheirShadows : Prop :=
  ∀ (s : State) (more : List Move), s.active = true → s.pend = none →
    (∀ xs xe : Byte, s.hearsOk 9 more →
      exec (.cmdSetRamXWindow xs xe) s = .next { s.after (evCmd 0x44#8 ++ evDat [xs, xe]) s.pins.afterData more with
        shadow := { s.shadow with winXS := xs, winXE := xe } })
    ∧ (∀ ys ye : Half, s.hearsOk 11 more →
      exec (.cmdSetRamYWindow ys ye) s = .next { s.after
          (evCmd 0x45#8 ++ evDat [lo8 ys.toNat, hi8 ys.toNat, lo8 ye.toNat, hi8 ye.toNat]) s.pins.afterData more with
        shadow := { s.shadow with winYS := ys, winYE := ye } })
    ∧ (∀ x : Byte, s.hearsOk 8 more →
      exec (.cmdSetRamXCounter x) s = .next { s.after (evCmd 0x4E#8 ++ evDat [x]) s.pins.afterData more with
        shadow := { s.shadow with curX := x } })
    ∧ (∀ y : Half, s.hearsOk 9 more →
      exec (.cmdSetRamYCounter y) s = .next { s.after (evCmd 0x4F#8 ++ evDat [lo8 y.toNat, hi8 y.toNat])
          s.pins.afterData more with
        shadow := { s.shadow with curY := y } })

/-- A window or cursor command cut short by an error writes no shadow: it ends the operation with BUS_ERROR and the shadow
registers as they were (R133, R253). -/
def Obligations.CutFrameWritesNoShadow : Prop :=
  ∀ (s : State) (c : Instr) (ms more : List Move) (e : Nat), s.active = true → s.pend = none →
    ((∃ xs xe, c = .cmdSetRamXWindow xs xe ∧ ms.length < 9) ∨ (∃ ys ye, c = .cmdSetRamYWindow ys ye ∧ ms.length < 11)
      ∨ (∃ x, c = .cmdSetRamXCounter x ∧ ms.length < 8) ∨ (∃ y, c = .cmdSetRamYCounter y ∧ ms.length < 9)) →
    s.env.script = ms ++ .err e :: more → (∀ m ∈ ms, ∃ l, m = .ok l) →
    ∃ t, exec c s = .next t ∧ t.shadow = s.shadow ∧ t.code = .busError ∧ t.active = false

/-- While ACTIVE = 0 the engine issues no transaction: a bus command outside an operation does nothing (R123). The three
commands with a payload of any length have no frame for an empty one (log 14). -/
def Obligations.NoCommandOutsideAnOperation : Prop :=
  ∀ (s : State) (c : Instr), c.isBus = true →
    (c.wellFormed = true → s.active = false → exec c s = .next s)
    ∧ (c.wellFormed = false → exec c s = .fault .emptyDataFrame)

/-! ## Exceptions -/

/-- An operation that needs Ready, and is supported, fails with INVALID_STATE when PSTATE is not Ready: only STATUS.CODE
changes and no event is issued (R255, R257). -/
def Obligations.NotReadyIsInvalidState : Prop :=
  ∀ (i : Instr) (s : State), s.active = false → needsReady s.rev i = true → s.pstate ≠ .ready →
    (∀ x y w h a, i = .updatePartialFrame x y w h a → s.rev = .v4) →
    exec i s = .next (s.ended .invalidState)

/-- UPDATE_PARTIAL_FRAME's checks in their order: UNSUPPORTED on LEGACY before anything else, then the state, then the
geometry, then the length; each changes STATUS.CODE alone and issues no event (R256, R257, R270, R272, R273). -/
def Obligations.PartialFrameChecksInOrder : Prop :=
  ∀ (s : State) (x y w h : Half) (a : List Byte), s.active = false →
    let valid := 1 ≤ w.toNat ∧ 1 ≤ h.toNat ∧ x.toNat + w.toNat ≤ 122 ∧ y.toNat + h.toNat ≤ 250 ∧ 8 ≤ w.toNat * h.toNat
    (s.rev = .legacy → exec (.updatePartialFrame x y w h a) s = .next (s.ended .unsupported))
    ∧ (s.rev = .v4 → s.pstate ≠ .ready → exec (.updatePartialFrame x y w h a) s = .next (s.ended .invalidState))
    ∧ (s.rev = .v4 → s.pstate = .ready → ¬ valid →
        exec (.updatePartialFrame x y w h a) s = .next (s.ended .invalidGeometry))
    ∧ (s.rev = .v4 → s.pstate = .ready → valid → a.length ≠ w.toNat * h.toNat / 8 →
        exec (.updatePartialFrame x y w h a) s = .next (s.ended .invalidBufferLength))

/-- A full-frame buffer whose length is not 4000 is INVALID_BUFFER_LENGTH, with STATUS.CODE alone changed and no event
(R257, R273). -/
def Obligations.WrongLengthIsInvalidBufferLength : Prop :=
  ∀ (s : State) (a b : List Byte), s.active = false → s.pstate = .ready →
    (a.length ≠ 4000 →
      exec (.updateFrame a) s = .next (s.ended .invalidBufferLength)
      ∧ exec (.updateAchromaticFrame a) s = .next (s.ended .invalidBufferLength)
      ∧ exec (.updateChromaticFrame a) s = .next (s.ended .invalidBufferLength)
      ∧ exec (.updateAndDisplayFrame a) s = .next (s.ended .invalidBufferLength))
    ∧ (a.length ≠ 4000 ∨ b.length ≠ 4000 → exec (.updateColorFrame a b) s = .next (s.ended .invalidBufferLength))

/-- Exceptions are precise, at every transaction of every host operation. Whatever operation it is, if the transport answers
`ms` with Ok (and idle) and then answers `Err(e)` to a transaction the operation still has to issue, then exactly what stands
before that one was done, each transaction answered Ok, that one was issued and failed, and none after it. The whole next state:
the operation ends with BUS_ERROR, ERR_INFO takes the error value (in its width, log 13), PSTATE falls for INIT and SLEEP only,
the pins stay at the last successful levels, the shadow registers and DUC2_ACC as the items already done left them, and every
other register, REFRESH among them (R196), as it was (R24, R124, R133, R252, R253, R259). The failing transaction may stand in the
step that accepts the operation, its pre-checks passing, or in a later step from any state that meets the invariant: after an
answer that the engine waited for, or the sample right after a poll interval, where R131(a) gives BUS_ERROR and not
PANEL_TIMEOUT (log 5 for what one step is). -/
def Obligations.BusErrorIsPrecise : Prop :=
  ∀ (i : Instr) (s : State) (ms more : List Move) (e : Nat),
    s.env.script = ms ++ .err e :: more → (∀ m ∈ ms, ∃ l, m = .ok l ∧ isBusy s.rev l = false) →
    let failed := fun (done : List Item) (txn : Transaction) =>
      (Host.Outcome.next { (s.after ((transactionsOf done).map idleEvent ++ [{ txn := txn, answer := .err e }])
          (pinsAfter done s.pins) more).ended .busError with
        shadow := shadowAfter done s.shadow
        duc2Acc := duc2After done s.duc2Acc
        errInfo := e % 2 ^ s.params.errInfoWidth
        pstate := if i = .init ∨ i = .sleep then .uninitialized else s.pstate } : Host.Outcome State Fault Refusal)
    (i.isBus = false → isRegisterOp i = false → s.active = false → s.params.wf = true → preCheck i s = none →
      ms.length < ((transactionsOf (sequenceOf i s)).filter Transaction.isAsked).length →
      ∃ done txn rest, sequenceOf i s = done ++ .issue txn :: rest ∧ txn.isAsked = true
        ∧ ((transactionsOf done).filter Transaction.isAsked).length = ms.length ∧ exec i s = failed done txn)
    ∧ (∀ x, s.Inv → s.active = true → s.inOperation i → s.pend = some x →
      ms.length < ((x :: transactionsOf s.seq).filter Transaction.isAsked).length →
      ∃ done txn rest, .issue x :: s.seq = done ++ .issue txn :: rest ∧ txn.isAsked = true
        ∧ ((transactionsOf done).filter Transaction.isAsked).length = ms.length ∧ step s = failed done txn)

/-- An `Err(e)` in answer to a waiting transaction ends the operation with BUS_ERROR: ERR_INFO takes the error value, PSTATE
falls for INIT and SLEEP, and every other register is as it was, the pin levels and the shadow registers included: nothing is
undone and nothing more is sent (R124, R252, R253). In any state, the invariant or not; BusErrorIsPrecise speaks of every
transaction that a step issues after an answer, or after a poll interval. -/
def Obligations.TransportErrorChangesNothingElse : Prop :=
  ∀ (s : State) (t : Transaction) (e : Nat) (more : List Move), s.active = true → s.pend = some t → t.isAsked = true →
    s.env.script = .err e :: more →
    step s = .next { s.ended .busError with
      errInfo := e % 2 ^ s.params.errInfoWidth
      pstate := if s.req.map Request.op ∈ [some 0x01#8, some 0x02#8] then .uninitialized else s.pstate
      env := { s.env with script := more }
      trace := s.trace ++ [{ txn := t, answer := .err e }] }

/-- Every operation's count of transactions, every busy sample idle (R298). -/
def Obligations.TransactionCounts : Prop :=
  ∀ (s : State) (i : Instr), preCheck i s = none → s.params.wf = true →
    (i = .init → (transactionsOf (sequenceOf i s)).length = 92)
    ∧ (i = .sleep → (transactionsOf (sequenceOf i s)).length = if s.rev = .v4 then 21 else 9)
    ∧ (∀ m, i = .setLut m → (transactionsOf (sequenceOf i s)).length = if s.rev = .v4 then 7 + s.params.lutLen else 0)
    ∧ (i = .waitIdle → (transactionsOf (sequenceOf i s)).length = 1)
    ∧ (∀ a, i = .updateFrame a →
        (transactionsOf (sequenceOf i s)).length = if s.refresh = .fullRefresh then 8090 else 4045)
    ∧ (∀ x y w h a, i = .updatePartialFrame x y w h a →
        (transactionsOf (sequenceOf i s)).length =
          if s.refresh = .fullRefresh then 90 + 2 * (w.toNat * h.toNat / 8) else 45 + w.toNat * h.toNat / 8)
    ∧ (∀ a b, i = .updateColorFrame a b → (transactionsOf (sequenceOf i s)).length = 8090)
    ∧ (∀ a, i = .updateAchromaticFrame a ∨ i = .updateChromaticFrame a →
        (transactionsOf (sequenceOf i s)).length = 4045)
    ∧ (i = .displayFrame → (transactionsOf (sequenceOf i s)).length = if s.rev = .v4 then 13 else 5)
    ∧ (∀ a, i = .updateAndDisplayFrame a →
        (transactionsOf (sequenceOf i s)).length =
          (if s.refresh = .fullRefresh then 8090 else 4045) + if s.rev = .v4 then 13 else 5)
    ∧ (i = .clearFrame → (transactionsOf (sequenceOf i s)).length = if s.refresh = .fullRefresh then 16180 else 8090)
    ∧ (isRegisterOp i = true → transactionsOf (sequenceOf i s) = [])

/-- Where the engine polls (R287), by the place in each operation's sequence: INIT after the reset pulse, after the software
reset, before the counters and at the end; SLEEP at the start; DISPLAY_FRAME after master activation; WAIT_IDLE; each RAM write
before its counters; and nowhere else, the other stretches being free of polls. -/
def Obligations.PollPoints : Prop :=
  ∀ (s : State) (i : Instr),
    match i with
    | .init => ∃ setup rest, pollFree setup ∧ pollFree rest ∧ sequenceOf i s =
        hardwareReset s.params.resetLowUs s.params.resetHighUs ++ waitUntilIdle ++ commandItems .cmdSwReset ++ waitUntilIdle
          ++ setup ++ waitUntilIdle ++ commandItems (.cmdSetRamXCounter 0#8) ++ commandItems (.cmdSetRamYCounter 0#16) ++ rest
          ++ waitUntilIdle ++ [.setPower .ready, .finish]
    | .sleep => ∃ rest, pollFree rest ∧ sequenceOf i s = waitUntilIdle ++ rest
    | .waitIdle => sequenceOf i s = waitUntilIdle ++ [.finish]
    | .displayFrame => ∃ before, pollFree before
        ∧ sequenceOf i s = before ++ commandItems .cmdMasterActivation ++ waitUntilIdle ++ [.finish]
    | .updateAndDisplayFrame _ => ∃ (writes : List (List Item)) (before : List Item), (∀ w ∈ writes, polledWrite w) ∧ pollFree before
        ∧ writes.length = (if s.refresh = .fullRefresh then 2 else 1)
        ∧ sequenceOf i s = writes.flatten ++ before ++ commandItems .cmdMasterActivation ++ waitUntilIdle ++ [.finish]
    | .updateFrame _ | .updatePartialFrame _ _ _ _ _ => ∃ writes : List (List Item), (∀ w ∈ writes, polledWrite w)
        ∧ writes.length = (if s.refresh = .fullRefresh then 2 else 1) ∧ sequenceOf i s = writes.flatten ++ [.finish]
    | .updateColorFrame _ _ => ∃ writes : List (List Item), (∀ w ∈ writes, polledWrite w) ∧ writes.length = 2
        ∧ sequenceOf i s = writes.flatten ++ [.finish]
    | .updateAchromaticFrame _ | .updateChromaticFrame _ => ∃ write, polledWrite write ∧ sequenceOf i s = write ++ [.finish]
    | .clearFrame => ∃ writes : List (List Item), (∀ w ∈ writes, polledWrite w)
        ∧ writes.length = (if s.refresh = .fullRefresh then 4 else 2) ∧ sequenceOf i s = writes.flatten ++ [.finish]
    | _ => pollFree (sequenceOf i s)

/-! ## What an operation leaves unchanged, whatever the transport answers -/

/-- The frame of every host operation, for every behaviour of the transport but an engine reset: the strap, the parameters
and the host's moves are unchanged; PSTATE is changed by INIT and SLEEP only, REFRESH by SET_LUT only, BG by
SET_BACKGROUND_COLOR only, RESULT by the GET operations only, DUC2_ACC by SLEEP and the display operations only, the shadow
registers by INIT and the operations that write RAM only, ERR_INFO only with BUS_ERROR; the trace only grows (R24, R25, R26,
R27, R28, R31, R32). -/
def Obligations.HostOperationFrame : Prop :=
  ∀ (i : Instr) (s t : State), i.isBus = false → s.noReset → exec i s = .next t →
    t.rev = s.rev ∧ t.params = s.params ∧ t.host = s.host
    ∧ (i ≠ .init → i ≠ .sleep → t.pstate = s.pstate)
    ∧ ((∀ m, i ≠ .setLut m) → t.refresh = s.refresh)
    ∧ ((∀ c, i ≠ .setBackgroundColor c) → t.bg = s.bg)
    ∧ (i ≠ .getBackgroundColor → i ≠ .getWidth → i ≠ .getHeight → t.result = s.result)
    ∧ (i ≠ .sleep → i ≠ .displayFrame → (∀ a, i ≠ .updateAndDisplayFrame a) → t.duc2Acc = s.duc2Acc)
    ∧ (i ≠ .init → writesRam i = false → t.shadow = s.shadow)
    ∧ (t.code ≠ .busError → t.errInfo = s.errInfo)
    ∧ (∃ evs, t.trace = s.trace ++ evs)

/-- The frame of a step that goes on with an operation, whatever the transport answers but an engine reset: as the frame of
the operation's first step, register by register (R24, R25, R26, R27, R28, R31, R32). -/
def Obligations.ResumedOperationFrame : Prop :=
  ∀ (i : Instr) (s t : State), s.Inv → s.active = true → s.inOperation i → s.noReset → step s = .next t →
    t.host = s.host ∧ t.bg = s.bg ∧ t.result = s.result
    ∧ (i ≠ .init → i ≠ .sleep → t.pstate = s.pstate)
    ∧ ((∀ m, i ≠ .setLut m) → t.refresh = s.refresh)
    ∧ (i ≠ .sleep → i ≠ .displayFrame → (∀ a, i ≠ .updateAndDisplayFrame a) → t.duc2Acc = s.duc2Acc)
    ∧ (i ≠ .init → writesRam i = false → t.shadow = s.shadow)
    ∧ (t.code ≠ .busError → t.errInfo = s.errInfo)
    ∧ (t.active = true → t.code = s.code ∧ t.errInfo = s.errInfo ∧ t.req = s.req)

/-- The frame of every bus command, for every behaviour of the transport but an engine reset: only the pins, the shadow
registers, the record of what is pending and left to do, and what an exception writes may change; the shadow registers only
for the four window and cursor commands. -/
def Obligations.BusCommandFrame : Prop :=
  ∀ (c : Instr) (s t : State), c.isBus = true → s.noReset → exec c s = .next t →
    t.rev = s.rev ∧ t.params = s.params ∧ t.host = s.host ∧ t.refresh = s.refresh ∧ t.bg = s.bg ∧ t.duc2Acc = s.duc2Acc
    ∧ t.result = s.result
    ∧ (t.code ≠ .busError → t.errInfo = s.errInfo)
    ∧ (t.active = s.active → t.code = s.code ∧ t.pstate = s.pstate ∧ t.errInfo = s.errInfo ∧ t.req = s.req)
    ∧ ((∀ xs xe, c ≠ .cmdSetRamXWindow xs xe) → (∀ ys ye, c ≠ .cmdSetRamYWindow ys ye) →
        (∀ x, c ≠ .cmdSetRamXCounter x) → (∀ y, c ≠ .cmdSetRamYCounter y) → t.shadow = s.shadow)
    ∧ (∃ evs, t.trace = s.trace ++ evs)

/-! ## The whole machine -/

/-- Every step keeps the invariant (R39, R25, R27, R31, R255). Its clause on an operation in progress rests on the model's
choices: that between two steps an active engine always has a pending transaction, one that waits for its answer or the poll
interval after a busy sample and never a reset pulse's `Delay`, is what one step is (log 5); that SEQ is the list of what is left
of the operation's sequence is the form of SEQ (log 7), of which R36(b) says only that it is the position in the sequence. -/
def Obligations.StepKeepsTheInvariant : Prop :=
  ∀ s t : State, s.Inv → step s = .next t → t.Inv

/-- The invariant holds after reset, of every strap and parameters, and State.reset is such a state, with parameters that R11
allows (log 1 and log 2: which strap and which parameters are the model's choice). -/
def Obligations.ResetMeetsTheInvariant : Prop :=
  (∀ (rev : Rev) (p : Params), (State.resetOf rev p).Inv) ∧ State.reset.Inv
  ∧ ∃ (rev : Rev) (p : Params), State.reset = State.resetOf rev p ∧ p.wf = true

/-- No step changes the strap or the parameters (R21, R284). The other two clauses are the model's choices: that no step takes
an event out of the trace, an engine reset included, is log 6's; that a step takes at most one move of the host's is log 4's. -/
def Obligations.StepKeepsTheInstance : Prop :=
  ∀ s t : State, step s = .next t →
    t.rev = s.rev ∧ t.params = s.params ∧ (∃ evs, t.trace = s.trace ++ evs)
    ∧ (t.host = s.host ∨ ∃ m, s.host = m :: t.host)

/-- The engine never stops: with parameters that R11 allows, and a host that presents complete requests only (a descriptor
and exactly the stream bytes it declares, or a descriptor with an unassigned OP and no stream), every step gives a next
state. -/
def Obligations.EveryStepGivesANextState : Prop :=
  ∀ s : State, s.params.wf = true →
    (∀ bytes rest, s.host = .request bytes :: rest →
      (∃ i, decodeRequest bytes = .ok (i, [])) ∨ (∃ op, decodeRequest bytes = .error (.illegalOp op) ∧ bytes.length = 16)) →
    ∃ t, step s = .next t

/-- When an operation that writes RAM completes with OK, the cursor's shadow equals the window's origin, whatever the
transport answered on the way (R185): where the step that accepted it completes it, and where a later one does, after busy
samples and waits, in any state that meets the invariant (log 5 for what one step is). -/
def Obligations.CursorAtTheWindowOrigin : Prop :=
  ∀ (i : Instr) (s t : State), writesRam i = true → t.active = false → t.code = .ok →
    (s.active = false → preCheck i s = none → exec i s = .next t →
      t.shadow.winXS = t.shadow.curX ∧ t.shadow.winYS = t.shadow.curY)
    ∧ (s.Inv → s.active = true → s.inOperation i → step s = .next t →
      t.shadow.winXS = t.shadow.curX ∧ t.shadow.winYS = t.shadow.curY)

/-- Every operation is made of bus commands of R100's table, busy polls, the reset pulse and register writes; on LEGACY none
of the commands is 0x22 or 0x32 (R3, R101, R147, R150). -/
def Obligations.OperationsAreMadeOfTableCommands : Prop :=
  ∀ (i : Instr) (s : State), i.isBus = false → preCheck i s = none → s.params.wf = true →
    ∃ blocks : List (List Item), sequenceOf i s = blocks.flatten
      ∧ ∀ b ∈ blocks,
          (∃ c, c.isBus = true ∧ c.wellFormed = true ∧ b = commandItems c
            ∧ (s.rev = .legacy → (∀ f, c ≠ .cmdDisplayUpdateControl2 f) ∧ (∀ d, c ≠ .cmdWriteLut d)))
          ∨ b = waitUntilIdle
          ∨ b = hardwareReset s.params.resetLowUs s.params.resetHighUs
          ∨ (∃ item, b = [item] ∧ ∀ t, item ≠ .issue t)

/-! ## Encoders -/

/-- Bit `k` of a DUC2 composition is set exactly when some action of the set owns it, so the order and repetition of the
actions do not matter (R167). Each action owns its own parameter's bit (R168), and the compositions of DISPLAY_FRAME and SLEEP
have exactly the bits of S_DISPLAY and S_SLEEP (R169). -/
def Obligations.CompositionDependsOnTheSetOnly : Prop :=
  ∀ (p : Params) (actions : List Duc2Action),
    (∀ k : Nat, (composeDuc2 p actions).getLsbD k = true ↔ ∃ a ∈ actions, (duc2Bit p a).val = k)
    ∧ (∀ others : List Duc2Action, (∀ a, a ∈ actions ↔ a ∈ others) → composeDuc2 p actions = composeDuc2 p others)
    ∧ (duc2Bit p .enableClock = p.bitEnableClock ∧ duc2Bit p .enableAnalog = p.bitEnableAnalog
      ∧ duc2Bit p .loadLut = p.bitLoadLut ∧ duc2Bit p .loadTemperature = p.bitLoadTemperature
      ∧ duc2Bit p .triggerDisplay = p.bitTriggerDisplay ∧ duc2Bit p .disableAnalog = p.bitDisableAnalog
      ∧ duc2Bit p .disableClock = p.bitDisableClock)
    ∧ holdsExactly (composeDuc2 p displayActions) (displayBits p) ∧ holdsExactly (composeDuc2 p sleepActions) (sleepBits p)

/-- The border, driver-output and data-entry encoders place each field at its bits, mask inputs out of range and leave the
unused bits 0 (R160, R163, R165). -/
def Obligations.EncodersPlaceTheirFields : Prop :=
  (∀ vbd fix gs : Nat,
    (borderWaveform vbd fix gs).extractLsb' 6 2 = BitVec.ofNat 2 vbd
    ∧ (borderWaveform vbd fix gs).extractLsb' 4 2 = BitVec.ofNat 2 fix
    ∧ (borderWaveform vbd fix gs).extractLsb' 2 2 = 0#2
    ∧ (borderWaveform vbd fix gs).extractLsb' 0 2 = BitVec.ofNat 2 gs)
  ∧ (∀ (n : Nat) (linear firstG0 increasing : Bool), ∃ flags : Byte,
    driverOutput n linear firstG0 increasing = [BitVec.ofNat 8 n, BitVec.ofNat 8 (n / 256), flags]
    ∧ flags.getLsbD 0 = !increasing ∧ flags.getLsbD 1 = !firstG0 ∧ flags.getLsbD 2 = !linear
    ∧ flags.extractLsb' 3 5 = 0#5)
  ∧ (∀ incMode direction : Nat,
    (dataEntry incMode direction).extractLsb' 0 2 = BitVec.ofNat 2 incMode
    ∧ (dataEntry incMode direction).extractLsb' 2 1 = BitVec.ofNat 1 direction
    ∧ (dataEntry incMode direction).extractLsb' 3 5 = 0#5)

/-! ## The observer of the controller's RAM -/

/-- A full-panel write of 4000 bytes leaves the bank equal to the data, the other bank as it was, and the cursor back at the
origin (R77). From an observer with CS_N Low, after a frame cut by a failed `ByteOut`, this rests on log 25; the cursor advance
on log 17; `lost` is log 16's. -/
def Obligations.FullPanelWriteFillsTheBank : Prop :=
  ∀ (o : Observer) (data : List Byte), o.lost = false → data.length = 4000 →
    (∀ i, i < 4000 → ((evRamWrite 0x24#8 fullPanel data).foldl Observer.see o).bankA.read i = data[i]?)
    ∧ (∀ i, i < 4000 → ((evRamWrite 0x26#8 fullPanel data).foldl Observer.see o).bankC.read i = data[i]?)
    ∧ ((evRamWrite 0x24#8 fullPanel data).foldl Observer.see o).bankC = o.bankC
    ∧ ((evRamWrite 0x26#8 fullPanel data).foldl Observer.see o).bankA = o.bankA
    ∧ ((evRamWrite 0x24#8 fullPanel data).foldl Observer.see o).cx = some 0
    ∧ ((evRamWrite 0x24#8 fullPanel data).foldl Observer.see o).cy = some 0
    ∧ ((evRamWrite 0x26#8 fullPanel data).foldl Observer.see o).cx = some 0
    ∧ ((evRamWrite 0x26#8 fullPanel data).foldl Observer.see o).cy = some 0

/-- Clearing twice is as clearing once: each CLEAR_FRAME adds the same events, and after the first and after the second both
banks hold BG everywhere in the observer (R224). For a trace that ends in a frame cut by a failed `ByteOut` the banks rest on
log 25; the cursor advance on log 17; `lost` is log 16's. -/
def Obligations.ClearFrameIsIdempotent : Prop :=
  ∀ (s : State) (n : Nat) (more : List Move), s.active = false → s.pstate = .ready →
    n = (if s.refresh = .fullRefresh then 16180 else 8090) → s.hearsIdle (n + n) more →
    (observe s.trace).lost = false →
    ∃ t u evs, exec .clearFrame s = .next t ∧ exec .clearFrame t = .next u
      ∧ t.code = .ok ∧ u.code = .ok ∧ t.active = false ∧ u.active = false
      ∧ t.trace = s.trace ++ evs ∧ u.trace = t.trace ++ evs
      ∧ (∀ i, i < 4000 → (observe t.trace).bankA.read i = some s.bg ∧ (observe t.trace).bankC.read i = some s.bg)
      ∧ (∀ i, i < 4000 → (observe u.trace).bankA.read i = some s.bg ∧ (observe u.trace).bankC.read i = some s.bg)

/-- The reset pulse makes every field of the observer unknown, the banks included, and software reset the window, the cursor
and the command but not the banks (R75). From an observer with CS_N Low already, that 0x12 is a command frame is log 25's choice;
`lost` is log 16's. -/
def Obligations.ObserverForgetsAtReset : Prop :=
  ∀ (o pulsed reset : Observer) (us us' : Nat),
    pulsed = (evPin .rstN .low ++ evDelay us ++ evPin .rstN .high ++ evDelay us').foldl Observer.see o →
    reset = (evCmd 0x12#8).foldl Observer.see o →
    (pulsed.bankA = [] ∧ pulsed.bankC = [] ∧ pulsed.xs = none ∧ pulsed.xe = none ∧ pulsed.ys = none
      ∧ pulsed.ye = none ∧ pulsed.cx = none ∧ pulsed.cy = none ∧ pulsed.cmd = none ∧ pulsed.lost = false)
    ∧ (o.lost = false → reset.bankA = o.bankA ∧ reset.bankC = o.bankC ∧ reset.xs = none ∧ reset.xe = none
      ∧ reset.ys = none ∧ reset.ye = none ∧ reset.cx = none ∧ reset.cy = none ∧ reset.cmd = none)

/-- Every trace leaves the observer's banks in canonical form (addresses rising), so that equal banks are equal lists, and
no listed address outside a bank's 4000. -/
def Obligations.ObserverKeepsItsBanksInForm : Prop :=
  ∀ trace : List Event,
    (observe trace).bankA.wf = true ∧ (observe trace).bankC.wf = true
    ∧ (∀ a, 4000 ≤ a → (observe trace).bankA.read a = none ∧ (observe trace).bankC.read a = none)

/-- A full-panel write to either bank, cut short, delivers the bytes that were accepted before the error (R72, I16): the bank
holds them, the rest of it and the other bank are as they were, the command is the write's, and an error to one more byte
changes nothing more. An error to the closing PinSet undoes nothing either: it only puts the frames from then on in doubt (I1),
so that the next byte that is accepted makes every field unknown (log 16). From an observer with CS_N Low already this rests on
log 25; the cursor advance on log 17. -/
def Obligations.CutFrameDeliversItsAcceptedBytes : Prop :=
  ∀ (o cut closed : Observer) (op b : Byte) (data : List Byte) (e : Nat), o.lost = false → op = 0x24#8 ∨ op = 0x26#8 →
    data.length ≤ 4000 →
    let written := evArea fullPanel ++ evCounters 0 0 ++ evCmd op ++ evPin .csN .low ++ evPin .dc .high ++ evBytes data
    let bank := fun v : Observer => if op = 0x24#8 then v.bankA else v.bankC
    let other := fun v : Observer => if op = 0x24#8 then v.bankC else v.bankA
    cut = (written ++ [Event.mk (.byteOut b) (.err e)]).foldl Observer.see o →
    closed = (written ++ [Event.mk (.pinSet .csN .high) (.err e)]).foldl Observer.see o →
    (∀ i, i < data.length → (bank cut).read i = data[i]?)
    ∧ (∀ i, data.length ≤ i → (bank cut).read i = (bank o).read i)
    ∧ other cut = other o ∧ cut.cmd = some op ∧ cut.lost = false
    ∧ cut = written.foldl Observer.see o
    ∧ closed = { cut with lost := true }
    ∧ (let later := closed.see (okEvent (.byteOut b))
      later.bankA = [] ∧ later.bankC = [] ∧ later.xs = none ∧ later.xe = none ∧ later.ys = none ∧ later.ye = none
        ∧ later.cx = none ∧ later.cy = none ∧ later.cmd = none ∧ later.lost = true)

/-! ## The latched request, and going on with an operation -/

/-- REQ latches what the descriptor holds, the fields its operation ignores too, and the buffers (R36(a), R266): for every
descriptor and stream that decode to an operation, the step runs that operation, and while ACTIVE = 1 afterwards REQ holds
OP, IMM8, X, Y, W, H and the buffers as presented. Nothing else depends on the ignored fields. -/
def Obligations.RequestIsLatched : Prop :=
  ∀ (s t : State) (i : Instr) (b₀ b₁ b₂ b₃ b₄ b₅ b₆ b₇ b₈ b₉ b₁₀ b₁₁ b₁₂ b₁₃ b₁₄ b₁₅ : Byte) (stream : List Byte)
      (rest : List HostMove),
    let request := [b₀, b₁, b₂, b₃, b₄, b₅, b₆, b₇, b₈, b₉, b₁₀, b₁₁, b₁₂, b₁₃, b₁₄, b₁₅] ++ stream
    s.active = false → s.host = .request request :: rest → decodeRequest request = .ok (i, []) → step s = .next t →
    (∃ t', exec i { s with host := rest } = .next t' ∧ t = { t' with req := t.req })
    ∧ (t.active = false → t.req = none)
    ∧ (t.active = true → ∃ r, t.req = some r ∧ r.operation = some i ∧ r.op = b₀ ∧ r.imm8 = b₁
        ∧ r.x = joinBytes b₄ b₅ ∧ r.y = joinBytes b₆ b₇ ∧ r.w = joinBytes b₈ b₉ ∧ r.h = joinBytes b₁₀ b₁₁
        ∧ r.bufA ++ r.bufB = stream ∧ (b₀ = 0x12#8 → r.bufA.length = (joinBytes b₁₂ b₁₃).toNat))

/-- An operation that waits, in any state that meets the invariant, for an answer or in a poll interval: if every answer still
to come is Ok and every sample idle, the step goes on with the rest of the operation's own sequence and completes with OK and
the operation's whole effect, whatever was done in earlier steps (R69, R122, R130; log 5 for what one step is). -/
def Obligations.ResumedOperationCompletes : Prop :=
  ∀ (i : Instr) (s : State) (t : Transaction) (more : List Move), s.Inv → s.active = true → s.inOperation i →
    s.pend = some t → s.hearsIdle ((t :: transactionsOf s.seq).filter Transaction.isAsked).length more →
    (∃ done, transactionsOf (sequenceOf i s) = done ++ t :: transactionsOf s.seq
      ∨ (t = .delay s.params.pollIntervalUs ∧ transactionsOf (sequenceOf i s) = done ++ transactionsOf s.seq))
    ∧ step s = .next (operationEffect i ((s.after ((t :: transactionsOf s.seq).map idleEvent)
        (pinsAfter (.issue t :: s.seq) s.pins) more).ended .ok))

/-- The first busy sample of a poll, in whichever step it is heard, for every operation and every one of its polls: after Ok and
idle answers to what comes before it, it ends the operation with PANEL_TIMEOUT if BUSY_POLL_LIMIT is 1 (PSTATE falling for INIT
and SLEEP only), and otherwise counts 1 and waits a poll interval before the next sample, with what follows that sample still
to do. The trace holds what came before it and the sample, and nothing more (R24, R130, R131, R252, R259). The sample is heard
in the step that accepts the operation, or in a later one from any state that meets the invariant; the sample an engine has
waited for is BusySampleCountsTowardsTheDeadline's (log 5 for what one step is). -/
def Obligations.FirstBusySampleOfAPoll : Prop :=
  ∀ (i : Instr) (s : State) (ms more : List Move) (done rest : List Transaction),
    s.env.script = ms ++ .ok .high :: more → (∀ m ∈ ms, ∃ l, m = .ok l ∧ isBusy s.rev l = false) →
    (done.filter Transaction.isAsked).length = ms.length →
    let counted := fun t : State =>
      t.trace = s.trace ++ done.map idleEvent ++ evSample .high ∧ t.env.script = more ∧ t.errInfo = s.errInfo
      ∧ (if ∃ n, s.params.busyPollLimit = some n ∧ n ≤ 1 then
          t.code = .panelTimeout ∧ t.active = false ∧ t.pend = none
          ∧ t.pstate = (if i = .init ∨ i = .sleep then .uninitialized else s.pstate)
        else
          t.active = true ∧ t.code = s.code ∧ t.pstate = s.pstate ∧ t.polls = some 1
          ∧ t.pend = some (.delay s.params.pollIntervalUs) ∧ transactionsOf t.seq = .pinGet :: rest)
    (i.isBus = false → isRegisterOp i = false → s.active = false → s.params.wf = true → preCheck i s = none →
      transactionsOf (sequenceOf i s) = done ++ .pinGet :: rest → ∃ t, exec i s = .next t ∧ counted t)
    ∧ (∀ x, s.Inv → s.active = true → s.inOperation i → s.pend = some x →
      x :: transactionsOf s.seq = done ++ .pinGet :: rest → (∃ y ∈ done, y.isAsked = true) →
      ∃ t, step s = .next t ∧ counted t)
end

