-- ==== Sys2Proof/Laws/Decode.lean ====
section
/-! SUPPORT. The splits and joins of a 16-bit field, the descriptor an encoding writes, and what the decoders do at each
opcode. -/

namespace Sys2Proof

theorem joinBytes_lo_hi (n : Nat) (_h : n < 65536) : joinBytes (lo8 n) (hi8 n) = BitVec.ofNat 16 n := by
  apply BitVec.eq_of_toNat_eq
  simp only [joinBytes, lo8, hi8, BitVec.toNat_ofNat]
  omega

@[simp] theorem joinBytes_of_half (v : Half) : joinBytes (lo8 v.toNat) (hi8 v.toNat) = v := by
  rw [joinBytes_lo_hi _ v.isLt]
  simp

theorem toNat_joinBytes (n : Nat) (h : n < 65536) : (joinBytes (lo8 n) (hi8 n)).toNat = n := by
  rw [joinBytes_lo_hi _ h]
  simp [Nat.mod_eq_of_lt h]

@[simp] theorem lo8_joinBytes (a b : Byte) : lo8 (joinBytes a b).toNat = a := by
  apply BitVec.eq_of_toNat_eq
  have ha := a.isLt
  have hb := b.isLt
  simp only [joinBytes, lo8, BitVec.toNat_ofNat]
  omega

@[simp] theorem hi8_joinBytes (a b : Byte) : hi8 (joinBytes a b).toNat = b := by
  apply BitVec.eq_of_toNat_eq
  have ha := a.isLt
  have hb := b.isLt
  simp only [joinBytes, hi8, BitVec.toNat_ofNat]
  omega

/-- A descriptor's bytes read back as its fields (R90, R97). -/
theorem readDescriptor_descriptorBytes (op imm8 : Byte) (x y w h : Half) (lenA lenB : Nat) (rest : List Byte) :
    readDescriptor (descriptorBytes op imm8 x y w h lenA lenB ++ rest) =
      some ({ op := op, imm8 := imm8, rsvd := 0#16, x := x, y := y, w := w, h := h,
              lenA := joinBytes (lo8 lenA) (hi8 lenA), lenB := joinBytes (lo8 lenB) (hi8 lenB) }, rest) := by
  simp only [descriptorBytes, List.cons_append, List.nil_append, readDescriptor, joinBytes_of_half]
  rfl

theorem takeStream_append (a rest : List Byte) : takeStream a.length (a ++ rest) = .ok (a, rest) := by
  simp [takeStream]

/-! The opcodes of the operations with streams (R93). -/

variable {d : Descriptor} (stream : List Byte)

theorem decodeDescriptor_updateFrame (h : d.op.toNat = 0x10) :
    decodeDescriptor d stream = withStreamA d stream .updateFrame := by simp only [decodeDescriptor, h]
theorem decodeDescriptor_updatePartialFrame (h : d.op.toNat = 0x11) :
    decodeDescriptor d stream = withStreamA d stream (.updatePartialFrame d.x d.y d.w d.h) := by
  simp only [decodeDescriptor, h]
theorem decodeDescriptor_updateColorFrame (h : d.op.toNat = 0x12) :
    decodeDescriptor d stream = withStreamsAB d stream .updateColorFrame := by simp only [decodeDescriptor, h]
theorem decodeDescriptor_updateAchromaticFrame (h : d.op.toNat = 0x13) :
    decodeDescriptor d stream = withStreamA d stream .updateAchromaticFrame := by simp only [decodeDescriptor, h]
theorem decodeDescriptor_updateChromaticFrame (h : d.op.toNat = 0x14) :
    decodeDescriptor d stream = withStreamA d stream .updateChromaticFrame := by simp only [decodeDescriptor, h]
theorem decodeDescriptor_updateAndDisplayFrame (h : d.op.toNat = 0x19) :
    decodeDescriptor d stream = withStreamA d stream .updateAndDisplayFrame := by simp only [decodeDescriptor, h]

end Sys2Proof
end

