-- ==== Sys2Proof/Laws/State.lean ====
section
/-! SUPPORT. One lemma per field per named update of the state, true by unfolding, so that no later proof unfolds a record
update. -/

namespace Sys2Proof.Machine

variable (s : State)

@[simp] theorem State.endOperation_rev (c : Status) : (s.endOperation c).rev = s.rev := rfl
@[simp] theorem State.endOperation_params (c : Status) : (s.endOperation c).params = s.params := rfl
@[simp] theorem State.endOperation_pstate (c : Status) : (s.endOperation c).pstate = s.pstate := rfl
@[simp] theorem State.endOperation_refresh (c : Status) : (s.endOperation c).refresh = s.refresh := rfl
@[simp] theorem State.endOperation_bg (c : Status) : (s.endOperation c).bg = s.bg := rfl
@[simp] theorem State.endOperation_duc2Acc (c : Status) : (s.endOperation c).duc2Acc = s.duc2Acc := rfl
@[simp] theorem State.endOperation_shadow (c : Status) : (s.endOperation c).shadow = s.shadow := rfl
@[simp] theorem State.endOperation_code (c : Status) : (s.endOperation c).code = c := rfl
@[simp] theorem State.endOperation_active (c : Status) : (s.endOperation c).active = false := rfl
@[simp] theorem State.endOperation_errInfo (c : Status) : (s.endOperation c).errInfo = s.errInfo := rfl
@[simp] theorem State.endOperation_result (c : Status) : (s.endOperation c).result = s.result := rfl
@[simp] theorem State.endOperation_pins (c : Status) : (s.endOperation c).pins = s.pins := rfl
@[simp] theorem State.endOperation_req (c : Status) : (s.endOperation c).req = none := rfl
@[simp] theorem State.endOperation_seq (c : Status) : (s.endOperation c).seq = [] := rfl
@[simp] theorem State.endOperation_polls (c : Status) : (s.endOperation c).polls = none := rfl
@[simp] theorem State.endOperation_pend (c : Status) : (s.endOperation c).pend = none := rfl
@[simp] theorem State.endOperation_env (c : Status) : (s.endOperation c).env = s.env := rfl
@[simp] theorem State.endOperation_host (c : Status) : (s.endOperation c).host = s.host := rfl
@[simp] theorem State.endOperation_trace (c : Status) : (s.endOperation c).trace = s.trace := rfl

@[simp] theorem State.complete_rev : s.complete.rev = s.rev := rfl
@[simp] theorem State.complete_params : s.complete.params = s.params := rfl
@[simp] theorem State.complete_pstate : s.complete.pstate = s.pstate := rfl
@[simp] theorem State.complete_refresh : s.complete.refresh = s.refresh := rfl
@[simp] theorem State.complete_bg : s.complete.bg = s.bg := rfl
@[simp] theorem State.complete_duc2Acc : s.complete.duc2Acc = s.duc2Acc := rfl
@[simp] theorem State.complete_shadow : s.complete.shadow = s.shadow := rfl
@[simp] theorem State.complete_code : s.complete.code = Status.ok := rfl
@[simp] theorem State.complete_active : s.complete.active = false := rfl
@[simp] theorem State.complete_errInfo : s.complete.errInfo = s.errInfo := rfl
@[simp] theorem State.complete_result : s.complete.result = s.result := rfl
@[simp] theorem State.complete_pins : s.complete.pins = s.pins := rfl
@[simp] theorem State.complete_req : s.complete.req = none := rfl
@[simp] theorem State.complete_seq : s.complete.seq = [] := rfl
@[simp] theorem State.complete_polls : s.complete.polls = none := rfl
@[simp] theorem State.complete_pend : s.complete.pend = none := rfl
@[simp] theorem State.complete_env : s.complete.env = s.env := rfl
@[simp] theorem State.complete_host : s.complete.host = s.host := rfl
@[simp] theorem State.complete_trace : s.complete.trace = s.trace := rfl

@[simp] theorem State.ended_rev (c : Status) : (s.ended c).rev = s.rev := rfl
@[simp] theorem State.ended_params (c : Status) : (s.ended c).params = s.params := rfl
@[simp] theorem State.ended_pstate (c : Status) : (s.ended c).pstate = s.pstate := rfl
@[simp] theorem State.ended_refresh (c : Status) : (s.ended c).refresh = s.refresh := rfl
@[simp] theorem State.ended_bg (c : Status) : (s.ended c).bg = s.bg := rfl
@[simp] theorem State.ended_duc2Acc (c : Status) : (s.ended c).duc2Acc = s.duc2Acc := rfl
@[simp] theorem State.ended_shadow (c : Status) : (s.ended c).shadow = s.shadow := rfl
@[simp] theorem State.ended_code (c : Status) : (s.ended c).code = c := rfl
@[simp] theorem State.ended_active (c : Status) : (s.ended c).active = false := rfl
@[simp] theorem State.ended_errInfo (c : Status) : (s.ended c).errInfo = s.errInfo := rfl
@[simp] theorem State.ended_result (c : Status) : (s.ended c).result = s.result := rfl
@[simp] theorem State.ended_pins (c : Status) : (s.ended c).pins = s.pins := rfl
@[simp] theorem State.ended_req (c : Status) : (s.ended c).req = none := rfl
@[simp] theorem State.ended_seq (c : Status) : (s.ended c).seq = [] := rfl
@[simp] theorem State.ended_polls (c : Status) : (s.ended c).polls = none := rfl
@[simp] theorem State.ended_pend (c : Status) : (s.ended c).pend = none := rfl
@[simp] theorem State.ended_env (c : Status) : (s.ended c).env = s.env := rfl
@[simp] theorem State.ended_host (c : Status) : (s.ended c).host = s.host := rfl
@[simp] theorem State.ended_trace (c : Status) : (s.ended c).trace = s.trace := rfl

@[simp] theorem State.raise_rev (c : Status) (e : Nat) : (s.raise c e).rev = s.rev := rfl
@[simp] theorem State.raise_params (c : Status) (e : Nat) : (s.raise c e).params = s.params := rfl
@[simp] theorem State.raise_pstate (c : Status) (e : Nat) : (s.raise c e).pstate = powerAfter s.req c s.pstate := rfl
@[simp] theorem State.raise_refresh (c : Status) (e : Nat) : (s.raise c e).refresh = s.refresh := rfl
@[simp] theorem State.raise_bg (c : Status) (e : Nat) : (s.raise c e).bg = s.bg := rfl
@[simp] theorem State.raise_duc2Acc (c : Status) (e : Nat) : (s.raise c e).duc2Acc = s.duc2Acc := rfl
@[simp] theorem State.raise_shadow (c : Status) (e : Nat) : (s.raise c e).shadow = s.shadow := rfl
@[simp] theorem State.raise_code (c : Status) (e : Nat) : (s.raise c e).code = c := rfl
@[simp] theorem State.raise_active (c : Status) (e : Nat) : (s.raise c e).active = false := rfl
@[simp] theorem State.raise_errInfo (c : Status) (e : Nat) : (s.raise c e).errInfo = errInfoAfter s.params c e s.errInfo := rfl
@[simp] theorem State.raise_result (c : Status) (e : Nat) : (s.raise c e).result = s.result := rfl
@[simp] theorem State.raise_pins (c : Status) (e : Nat) : (s.raise c e).pins = s.pins := rfl
@[simp] theorem State.raise_req (c : Status) (e : Nat) : (s.raise c e).req = none := rfl
@[simp] theorem State.raise_seq (c : Status) (e : Nat) : (s.raise c e).seq = [] := rfl
@[simp] theorem State.raise_polls (c : Status) (e : Nat) : (s.raise c e).polls = none := rfl
@[simp] theorem State.raise_pend (c : Status) (e : Nat) : (s.raise c e).pend = none := rfl
@[simp] theorem State.raise_env (c : Status) (e : Nat) : (s.raise c e).env = s.env := rfl
@[simp] theorem State.raise_host (c : Status) (e : Nat) : (s.raise c e).host = s.host := rfl
@[simp] theorem State.raise_trace (c : Status) (e : Nat) : (s.raise c e).trace = s.trace := rfl

@[simp] theorem State.engineReset_rev : s.engineReset.rev = s.rev := rfl
@[simp] theorem State.engineReset_params : s.engineReset.params = s.params := rfl
@[simp] theorem State.engineReset_pstate : s.engineReset.pstate = PowerState.uninitialized := rfl
@[simp] theorem State.engineReset_refresh : s.engineReset.refresh = RefreshMode.fullRefresh := rfl
@[simp] theorem State.engineReset_bg : s.engineReset.bg = s.params.bgReset := rfl
@[simp] theorem State.engineReset_duc2Acc : s.engineReset.duc2Acc = 0x00#8 := rfl
@[simp] theorem State.engineReset_shadow : s.engineReset.shadow = Shadow.zero := rfl
@[simp] theorem State.engineReset_code : s.engineReset.code = Status.ok := rfl
@[simp] theorem State.engineReset_active : s.engineReset.active = false := rfl
@[simp] theorem State.engineReset_errInfo : s.engineReset.errInfo = 0 := rfl
@[simp] theorem State.engineReset_result : s.engineReset.result = 0#16 := rfl
@[simp] theorem State.engineReset_pins : s.engineReset.pins = Pins.atReset := rfl
@[simp] theorem State.engineReset_req : s.engineReset.req = none := rfl
@[simp] theorem State.engineReset_seq : s.engineReset.seq = [] := rfl
@[simp] theorem State.engineReset_polls : s.engineReset.polls = none := rfl
@[simp] theorem State.engineReset_pend : s.engineReset.pend = none := rfl
@[simp] theorem State.engineReset_env : s.engineReset.env = s.env := rfl
@[simp] theorem State.engineReset_host : s.engineReset.host = s.host := rfl
@[simp] theorem State.engineReset_trace : s.engineReset.trace = s.trace := rfl

@[simp] theorem State.record_rev (t : Transaction) (a : Answer) : (s.record t a).rev = s.rev := rfl
@[simp] theorem State.record_params (t : Transaction) (a : Answer) : (s.record t a).params = s.params := rfl
@[simp] theorem State.record_pstate (t : Transaction) (a : Answer) : (s.record t a).pstate = s.pstate := rfl
@[simp] theorem State.record_refresh (t : Transaction) (a : Answer) : (s.record t a).refresh = s.refresh := rfl
@[simp] theorem State.record_bg (t : Transaction) (a : Answer) : (s.record t a).bg = s.bg := rfl
@[simp] theorem State.record_duc2Acc (t : Transaction) (a : Answer) : (s.record t a).duc2Acc = s.duc2Acc := rfl
@[simp] theorem State.record_shadow (t : Transaction) (a : Answer) : (s.record t a).shadow = s.shadow := rfl
@[simp] theorem State.record_code (t : Transaction) (a : Answer) : (s.record t a).code = s.code := rfl
@[simp] theorem State.record_active (t : Transaction) (a : Answer) : (s.record t a).active = s.active := rfl
@[simp] theorem State.record_errInfo (t : Transaction) (a : Answer) : (s.record t a).errInfo = s.errInfo := rfl
@[simp] theorem State.record_result (t : Transaction) (a : Answer) : (s.record t a).result = s.result := rfl
@[simp] theorem State.record_pins (t : Transaction) (a : Answer) : (s.record t a).pins = s.pins := rfl
@[simp] theorem State.record_req (t : Transaction) (a : Answer) : (s.record t a).req = s.req := rfl
@[simp] theorem State.record_seq (t : Transaction) (a : Answer) : (s.record t a).seq = s.seq := rfl
@[simp] theorem State.record_polls (t : Transaction) (a : Answer) : (s.record t a).polls = s.polls := rfl
@[simp] theorem State.record_pend (t : Transaction) (a : Answer) : (s.record t a).pend = none := rfl
@[simp] theorem State.record_env (t : Transaction) (a : Answer) : (s.record t a).env = s.env := rfl
@[simp] theorem State.record_host (t : Transaction) (a : Answer) : (s.record t a).host = s.host := rfl
@[simp] theorem State.record_trace (t : Transaction) (a : Answer) : (s.record t a).trace = s.trace ++ [⟨t, a⟩] := rfl

@[simp] theorem State.setPin_rev (p : Pin) (l : Level) : (s.setPin p l).rev = s.rev := rfl
@[simp] theorem State.setPin_params (p : Pin) (l : Level) : (s.setPin p l).params = s.params := rfl
@[simp] theorem State.setPin_pstate (p : Pin) (l : Level) : (s.setPin p l).pstate = s.pstate := rfl
@[simp] theorem State.setPin_refresh (p : Pin) (l : Level) : (s.setPin p l).refresh = s.refresh := rfl
@[simp] theorem State.setPin_bg (p : Pin) (l : Level) : (s.setPin p l).bg = s.bg := rfl
@[simp] theorem State.setPin_duc2Acc (p : Pin) (l : Level) : (s.setPin p l).duc2Acc = s.duc2Acc := rfl
@[simp] theorem State.setPin_shadow (p : Pin) (l : Level) : (s.setPin p l).shadow = s.shadow := rfl
@[simp] theorem State.setPin_code (p : Pin) (l : Level) : (s.setPin p l).code = s.code := rfl
@[simp] theorem State.setPin_active (p : Pin) (l : Level) : (s.setPin p l).active = s.active := rfl
@[simp] theorem State.setPin_errInfo (p : Pin) (l : Level) : (s.setPin p l).errInfo = s.errInfo := rfl
@[simp] theorem State.setPin_result (p : Pin) (l : Level) : (s.setPin p l).result = s.result := rfl
@[simp] theorem State.setPin_pins (p : Pin) (l : Level) : (s.setPin p l).pins = s.pins.set p l := rfl
@[simp] theorem State.setPin_req (p : Pin) (l : Level) : (s.setPin p l).req = s.req := rfl
@[simp] theorem State.setPin_seq (p : Pin) (l : Level) : (s.setPin p l).seq = s.seq := rfl
@[simp] theorem State.setPin_polls (p : Pin) (l : Level) : (s.setPin p l).polls = s.polls := rfl
@[simp] theorem State.setPin_pend (p : Pin) (l : Level) : (s.setPin p l).pend = s.pend := rfl
@[simp] theorem State.setPin_env (p : Pin) (l : Level) : (s.setPin p l).env = s.env := rfl
@[simp] theorem State.setPin_host (p : Pin) (l : Level) : (s.setPin p l).host = s.host := rfl
@[simp] theorem State.setPin_trace (p : Pin) (l : Level) : (s.setPin p l).trace = s.trace := rfl

@[simp] theorem State.latch_rev (w : ShadowWrite) : (s.latch w).rev = s.rev := rfl
@[simp] theorem State.latch_params (w : ShadowWrite) : (s.latch w).params = s.params := rfl
@[simp] theorem State.latch_pstate (w : ShadowWrite) : (s.latch w).pstate = s.pstate := rfl
@[simp] theorem State.latch_refresh (w : ShadowWrite) : (s.latch w).refresh = s.refresh := rfl
@[simp] theorem State.latch_bg (w : ShadowWrite) : (s.latch w).bg = s.bg := rfl
@[simp] theorem State.latch_duc2Acc (w : ShadowWrite) : (s.latch w).duc2Acc = s.duc2Acc := rfl
@[simp] theorem State.latch_shadow (w : ShadowWrite) : (s.latch w).shadow = s.shadow.put w := rfl
@[simp] theorem State.latch_code (w : ShadowWrite) : (s.latch w).code = s.code := rfl
@[simp] theorem State.latch_active (w : ShadowWrite) : (s.latch w).active = s.active := rfl
@[simp] theorem State.latch_errInfo (w : ShadowWrite) : (s.latch w).errInfo = s.errInfo := rfl
@[simp] theorem State.latch_result (w : ShadowWrite) : (s.latch w).result = s.result := rfl
@[simp] theorem State.latch_pins (w : ShadowWrite) : (s.latch w).pins = s.pins := rfl
@[simp] theorem State.latch_req (w : ShadowWrite) : (s.latch w).req = s.req := rfl
@[simp] theorem State.latch_seq (w : ShadowWrite) : (s.latch w).seq = s.seq := rfl
@[simp] theorem State.latch_polls (w : ShadowWrite) : (s.latch w).polls = s.polls := rfl
@[simp] theorem State.latch_pend (w : ShadowWrite) : (s.latch w).pend = s.pend := rfl
@[simp] theorem State.latch_env (w : ShadowWrite) : (s.latch w).env = s.env := rfl
@[simp] theorem State.latch_host (w : ShadowWrite) : (s.latch w).host = s.host := rfl
@[simp] theorem State.latch_trace (w : ShadowWrite) : (s.latch w).trace = s.trace := rfl

@[simp] theorem State.await_rev (t : Transaction) (rest : List Item) : (s.await t rest).rev = s.rev := rfl
@[simp] theorem State.await_params (t : Transaction) (rest : List Item) : (s.await t rest).params = s.params := rfl
@[simp] theorem State.await_pstate (t : Transaction) (rest : List Item) : (s.await t rest).pstate = s.pstate := rfl
@[simp] theorem State.await_refresh (t : Transaction) (rest : List Item) : (s.await t rest).refresh = s.refresh := rfl
@[simp] theorem State.await_bg (t : Transaction) (rest : List Item) : (s.await t rest).bg = s.bg := rfl
@[simp] theorem State.await_duc2Acc (t : Transaction) (rest : List Item) : (s.await t rest).duc2Acc = s.duc2Acc := rfl
@[simp] theorem State.await_shadow (t : Transaction) (rest : List Item) : (s.await t rest).shadow = s.shadow := rfl
@[simp] theorem State.await_code (t : Transaction) (rest : List Item) : (s.await t rest).code = s.code := rfl
@[simp] theorem State.await_active (t : Transaction) (rest : List Item) : (s.await t rest).active = s.active := rfl
@[simp] theorem State.await_errInfo (t : Transaction) (rest : List Item) : (s.await t rest).errInfo = s.errInfo := rfl
@[simp] theorem State.await_result (t : Transaction) (rest : List Item) : (s.await t rest).result = s.result := rfl
@[simp] theorem State.await_pins (t : Transaction) (rest : List Item) : (s.await t rest).pins = s.pins := rfl
@[simp] theorem State.await_req (t : Transaction) (rest : List Item) : (s.await t rest).req = s.req := rfl
@[simp] theorem State.await_seq (t : Transaction) (rest : List Item) : (s.await t rest).seq = rest ++ s.seq := rfl
@[simp] theorem State.await_polls (t : Transaction) (rest : List Item) : (s.await t rest).polls = s.polls := rfl
@[simp] theorem State.await_pend (t : Transaction) (rest : List Item) : (s.await t rest).pend = some t := rfl
@[simp] theorem State.await_env (t : Transaction) (rest : List Item) : (s.await t rest).env = s.env := rfl
@[simp] theorem State.await_host (t : Transaction) (rest : List Item) : (s.await t rest).host = s.host := rfl
@[simp] theorem State.await_trace (t : Transaction) (rest : List Item) : (s.await t rest).trace = s.trace := rfl

@[simp] theorem State.accept_rev (i : Instr) : (s.accept i).rev = s.rev := rfl
@[simp] theorem State.accept_params (i : Instr) : (s.accept i).params = s.params := rfl
@[simp] theorem State.accept_pstate (i : Instr) : (s.accept i).pstate = s.pstate := rfl
@[simp] theorem State.accept_refresh (i : Instr) : (s.accept i).refresh = s.refresh := rfl
@[simp] theorem State.accept_bg (i : Instr) : (s.accept i).bg = s.bg := rfl
@[simp] theorem State.accept_duc2Acc (i : Instr) : (s.accept i).duc2Acc = s.duc2Acc := rfl
@[simp] theorem State.accept_shadow (i : Instr) : (s.accept i).shadow = s.shadow := rfl
@[simp] theorem State.accept_code (i : Instr) : (s.accept i).code = s.code := rfl
@[simp] theorem State.accept_active (i : Instr) : (s.accept i).active = true := rfl
@[simp] theorem State.accept_errInfo (i : Instr) : (s.accept i).errInfo = s.errInfo := rfl
@[simp] theorem State.accept_result (i : Instr) : (s.accept i).result = s.result := rfl
@[simp] theorem State.accept_pins (i : Instr) : (s.accept i).pins = s.pins := rfl
@[simp] theorem State.accept_req (i : Instr) : (s.accept i).req = some (requestOf i) := rfl
@[simp] theorem State.accept_seq (i : Instr) : (s.accept i).seq = [] := rfl
@[simp] theorem State.accept_polls (i : Instr) : (s.accept i).polls = none := rfl
@[simp] theorem State.accept_pend (i : Instr) : (s.accept i).pend = none := rfl
@[simp] theorem State.accept_env (i : Instr) : (s.accept i).env = s.env := rfl
@[simp] theorem State.accept_host (i : Instr) : (s.accept i).host = s.host := rfl
@[simp] theorem State.accept_trace (i : Instr) : (s.accept i).trace = s.trace := rfl

@[simp] theorem State.after_rev (evs : List Event) (p : Pins) (more : List Move) : (s.after evs p more).rev = s.rev := rfl
@[simp] theorem State.after_params (evs : List Event) (p : Pins) (more : List Move) : (s.after evs p more).params = s.params := rfl
@[simp] theorem State.after_pstate (evs : List Event) (p : Pins) (more : List Move) : (s.after evs p more).pstate = s.pstate := rfl
@[simp] theorem State.after_refresh (evs : List Event) (p : Pins) (more : List Move) : (s.after evs p more).refresh = s.refresh := rfl
@[simp] theorem State.after_bg (evs : List Event) (p : Pins) (more : List Move) : (s.after evs p more).bg = s.bg := rfl
@[simp] theorem State.after_duc2Acc (evs : List Event) (p : Pins) (more : List Move) : (s.after evs p more).duc2Acc = s.duc2Acc := rfl
@[simp] theorem State.after_shadow (evs : List Event) (p : Pins) (more : List Move) : (s.after evs p more).shadow = s.shadow := rfl
@[simp] theorem State.after_code (evs : List Event) (p : Pins) (more : List Move) : (s.after evs p more).code = s.code := rfl
@[simp] theorem State.after_active (evs : List Event) (p : Pins) (more : List Move) : (s.after evs p more).active = s.active := rfl
@[simp] theorem State.after_errInfo (evs : List Event) (p : Pins) (more : List Move) : (s.after evs p more).errInfo = s.errInfo := rfl
@[simp] theorem State.after_result (evs : List Event) (p : Pins) (more : List Move) : (s.after evs p more).result = s.result := rfl
@[simp] theorem State.after_pins (evs : List Event) (p : Pins) (more : List Move) : (s.after evs p more).pins = p := rfl
@[simp] theorem State.after_req (evs : List Event) (p : Pins) (more : List Move) : (s.after evs p more).req = s.req := rfl
@[simp] theorem State.after_seq (evs : List Event) (p : Pins) (more : List Move) : (s.after evs p more).seq = s.seq := rfl
@[simp] theorem State.after_polls (evs : List Event) (p : Pins) (more : List Move) : (s.after evs p more).polls = s.polls := rfl
@[simp] theorem State.after_pend (evs : List Event) (p : Pins) (more : List Move) : (s.after evs p more).pend = s.pend := rfl
@[simp] theorem State.after_env (evs : List Event) (p : Pins) (more : List Move) : (s.after evs p more).env = { s.env with script := more } := rfl
@[simp] theorem State.after_host (evs : List Event) (p : Pins) (more : List Move) : (s.after evs p more).host = s.host := rfl
@[simp] theorem State.after_trace (evs : List Event) (p : Pins) (more : List Move) : (s.after evs p more).trace = s.trace ++ evs := rfl

@[simp] theorem State.setResult_rev (v : Half) : (State.setResult v s).rev = s.rev := rfl
@[simp] theorem State.setResult_params (v : Half) : (State.setResult v s).params = s.params := rfl
@[simp] theorem State.setResult_pstate (v : Half) : (State.setResult v s).pstate = s.pstate := rfl
@[simp] theorem State.setResult_refresh (v : Half) : (State.setResult v s).refresh = s.refresh := rfl
@[simp] theorem State.setResult_bg (v : Half) : (State.setResult v s).bg = s.bg := rfl
@[simp] theorem State.setResult_duc2Acc (v : Half) : (State.setResult v s).duc2Acc = s.duc2Acc := rfl
@[simp] theorem State.setResult_shadow (v : Half) : (State.setResult v s).shadow = s.shadow := rfl
@[simp] theorem State.setResult_code (v : Half) : (State.setResult v s).code = s.code := rfl
@[simp] theorem State.setResult_active (v : Half) : (State.setResult v s).active = s.active := rfl
@[simp] theorem State.setResult_errInfo (v : Half) : (State.setResult v s).errInfo = s.errInfo := rfl
@[simp] theorem State.setResult_result (v : Half) : (State.setResult v s).result = v := rfl
@[simp] theorem State.setResult_pins (v : Half) : (State.setResult v s).pins = s.pins := rfl
@[simp] theorem State.setResult_req (v : Half) : (State.setResult v s).req = s.req := rfl
@[simp] theorem State.setResult_seq (v : Half) : (State.setResult v s).seq = s.seq := rfl
@[simp] theorem State.setResult_polls (v : Half) : (State.setResult v s).polls = s.polls := rfl
@[simp] theorem State.setResult_pend (v : Half) : (State.setResult v s).pend = s.pend := rfl
@[simp] theorem State.setResult_env (v : Half) : (State.setResult v s).env = s.env := rfl
@[simp] theorem State.setResult_host (v : Half) : (State.setResult v s).host = s.host := rfl
@[simp] theorem State.setResult_trace (v : Half) : (State.setResult v s).trace = s.trace := rfl

@[simp] theorem State.setBg_rev (v : Byte) : (State.setBg v s).rev = s.rev := rfl
@[simp] theorem State.setBg_params (v : Byte) : (State.setBg v s).params = s.params := rfl
@[simp] theorem State.setBg_pstate (v : Byte) : (State.setBg v s).pstate = s.pstate := rfl
@[simp] theorem State.setBg_refresh (v : Byte) : (State.setBg v s).refresh = s.refresh := rfl
@[simp] theorem State.setBg_bg (v : Byte) : (State.setBg v s).bg = v := rfl
@[simp] theorem State.setBg_duc2Acc (v : Byte) : (State.setBg v s).duc2Acc = s.duc2Acc := rfl
@[simp] theorem State.setBg_shadow (v : Byte) : (State.setBg v s).shadow = s.shadow := rfl
@[simp] theorem State.setBg_code (v : Byte) : (State.setBg v s).code = s.code := rfl
@[simp] theorem State.setBg_active (v : Byte) : (State.setBg v s).active = s.active := rfl
@[simp] theorem State.setBg_errInfo (v : Byte) : (State.setBg v s).errInfo = s.errInfo := rfl
@[simp] theorem State.setBg_result (v : Byte) : (State.setBg v s).result = s.result := rfl
@[simp] theorem State.setBg_pins (v : Byte) : (State.setBg v s).pins = s.pins := rfl
@[simp] theorem State.setBg_req (v : Byte) : (State.setBg v s).req = s.req := rfl
@[simp] theorem State.setBg_seq (v : Byte) : (State.setBg v s).seq = s.seq := rfl
@[simp] theorem State.setBg_polls (v : Byte) : (State.setBg v s).polls = s.polls := rfl
@[simp] theorem State.setBg_pend (v : Byte) : (State.setBg v s).pend = s.pend := rfl
@[simp] theorem State.setBg_env (v : Byte) : (State.setBg v s).env = s.env := rfl
@[simp] theorem State.setBg_host (v : Byte) : (State.setBg v s).host = s.host := rfl
@[simp] theorem State.setBg_trace (v : Byte) : (State.setBg v s).trace = s.trace := rfl

end Sys2Proof.Machine
end

