-- ==== Sys2Proof/Laws/Ops.lean ====
section
/-! SUPPORT. What the shared operations do, said once: the transport's next move, taking an answer, and running a sequence
(stretch by stretch, and whole stretches whose answers are all Ok). -/

namespace Sys2Proof.Machine

/-! The transport's next move. -/

theorem Env.next_of_script {e : Env} {m : Move} {rest : List Move} (h : e.script = m :: rest) :
    e.next = some (m, { e with script := rest }) := by
  simp [Env.next, h]

theorem Env.next_none_iff (e : Env) : e.next = none ↔ e.script = [] ∧ e.loop = [] := by
  unfold Env.next
  cases h : e.script with
  | nil => cases h' : e.loop with
    | nil => simp
    | cons m r => simp
  | cons m r => simp

/-! Taking an answer. -/

/-- A `Delay` takes no move, if the next one is no engine reset. -/
theorem settle_delay {s : State} (us : Nat) (rest : List Item) (h : ∀ env, s.env.next ≠ some (.reset, env)) :
    settle (.delay us) rest s = .go (s.record (.delay us) .ok) := by
  cases hn : s.env.next with
  | none => simp [settle, hn]
  | some me =>
    obtain ⟨m, env⟩ := me
    cases m with
    | reset => exact absurd hn (h env)
    | _ => simp [settle, hn]

/-- An engine reset cuts any pending transaction, a `Delay` too. -/
theorem settle_reset {s : State} {env : Env} (t : Transaction) (rest : List Item) (h : s.env.next = some (.reset, env)) :
    settle t rest s = .stop ({ s with env := env }.record t .cut).engineReset := by
  cases t <;> simp only [settle, h, moved]

theorem Env.next_ne_reset_of_script {e : Env} {m : Move} {more : List Move} (h : e.script = m :: more) (hm : m ≠ .reset) :
    ∀ env, e.next ≠ some (.reset, env) := by
  intro env he
  rw [Env.next_of_script h] at he
  cases he
  exact hm rfl

theorem settle_asked {t : Transaction} (h : t.isAsked = true) (rest : List Item) (s : State) :
    settle t rest s =
      match s.env.next with
      | none => .stop (s.await t rest)
      | some (m, env) => moved m t rest { s with env := env } := by
  cases t with
  | delay us => simp [Transaction.isAsked] at h
  | pinSet p l => rfl
  | byteOut b => rfl
  | pinGet => rfl

theorem settle_of_script {t : Transaction} (h : t.isAsked = true) {m : Move} {more : List Move} (rest : List Item)
    {s : State} (hs : s.env.script = m :: more) :
    settle t rest s = moved m t rest { s with env := { s.env with script := more } } := by
  rw [settle_asked h, Env.next_of_script hs]

theorem sampled_idle {l : Level} {s : State} (rest : List Item) (h : isBusy s.rev l = false) :
    sampled l rest s = .go s := by
  simp [sampled, h]

/-! Running a sequence. -/

@[simp] theorem run_nil (s : State) : run [] s = .go s := rfl

theorem run_cons (i : Item) (rest : List Item) (s : State) :
    run (i :: rest) s =
      match perform i rest s with
      | .go s' => run rest s'
      | .stop s' => .stop s' := rfl

theorem run_cons_go {i : Item} {rest : List Item} {s s' : State} (h : perform i rest s = .go s') :
    run (i :: rest) s = run rest s' := by
  rw [run_cons, h]

/-- The same turn with another continuation in SEQ: what goes on has `q` there. -/
def Turn.withSeq (q : List Item) : Turn → Turn
  | .go s => .go { s with seq := q }
  | .stop s => .stop s

theorem perform_append (i : Item) (a b : List Item) (s : State) :
    perform i (a ++ b) s = (perform i a { s with seq := b ++ s.seq }).withSeq s.seq := by
  cases i with
  | issue t =>
    cases t with
    | delay us =>
      simp only [perform, settle]
      cases s.env.next with
      | none => simp [Turn.withSeq, State.record]
      | some me =>
        obtain ⟨m, env⟩ := me
        cases m <;> simp [moved, Turn.withSeq, State.record, State.engineReset, State.resetOf]
    | pinSet p l =>
      simp only [perform, settle]
      cases s.env.next with
      | none => simp [Turn.withSeq, State.await]
      | some me =>
        obtain ⟨m, env⟩ := me
        cases m <;> simp [moved, answeredOk, Turn.withSeq, State.await, State.record, State.raise, State.endOperation,
          State.engineReset, State.setPin, State.resetOf]
    | byteOut b =>
      simp only [perform, settle]
      cases s.env.next with
      | none => simp [Turn.withSeq, State.await]
      | some me =>
        obtain ⟨m, env⟩ := me
        cases m <;> simp [moved, answeredOk, Turn.withSeq, State.await, State.record, State.raise, State.endOperation,
          State.engineReset, State.resetOf]
    | pinGet =>
      simp only [perform, settle]
      cases s.env.next with
      | none => simp [Turn.withSeq, State.await]
      | some me =>
        obtain ⟨m, env⟩ := me
        cases m with
        | ok l =>
          simp only [moved, answeredOk, sampled, State.record]
          cases isBusy s.rev l with
          | false => rfl
          | true =>
            simp only [busySample, Option.getD_some]
            cases limitReached s.params.busyPollLimit (s.polls.getD 0 + 1) <;>
              simp [Turn.withSeq, State.raise, State.endOperation, State.await]
        | err e => simp [moved, Turn.withSeq, State.record, State.raise, State.endOperation]
        | wait => simp [moved, Turn.withSeq, State.await]
        | reset => simp [moved, Turn.withSeq, State.record, State.engineReset, State.resetOf]
  | startPoll => rfl
  | latch w => rfl
  | compose v => rfl
  | setPower p => rfl
  | setRefresh m => rfl
  | finish => rfl

theorem perform_go_seq {i : Item} {rest : List Item} {s s' : State} (h : perform i rest s = .go s') :
    s'.seq = s.seq := by
  have key := perform_append i rest [] s
  simp only [List.append_nil, List.nil_append] at key
  rw [h] at key
  simp only [Turn.withSeq, Turn.go.injEq] at key
  rw [key]

/-- A sequence in two parts: the second runs where the first goes on. While the first runs, the second waits in SEQ. -/
theorem run_append (a b : List Item) (s : State) :
    run (a ++ b) s =
      match run a { s with seq := b ++ s.seq } with
      | .go s' => run b { s' with seq := s.seq }
      | .stop s' => .stop s' := by
  induction a generalizing s with
  | nil => simp
  | cons i a ih =>
    rw [List.cons_append, run_cons, run_cons, perform_append]
    cases h : perform i a { s with seq := b ++ s.seq } with
    | stop s' => simp [Turn.withSeq]
    | go s' =>
      have hseq := perform_go_seq h
      simp only [Turn.withSeq]
      rw [ih]
      simp only at hseq
      rw [← hseq]

/-! Stretches whose answers are all Ok. -/

theorem State.after_after (s : State) (e₁ e₂ : List Event) (p₁ p₂ : Pins) (m₁ m₂ : List Move) :
    (s.after e₁ p₁ m₁).after e₂ p₂ m₂ = s.after (e₁ ++ e₂) p₂ m₂ := by
  simp [State.after]

theorem State.hearsOk_of_idle {s : State} {n : Nat} {more : List Move} (h : s.hearsIdle n more) : s.hearsOk n more := by
  obtain ⟨ms, h1, h2, h3⟩ := h
  exact ⟨ms, h1, h2, fun m hm => (h3 m hm).imp fun _ h => h.1⟩

/-- Answers for two stretches are answers for the first and then for the second. -/
theorem State.hearsOk_split {s : State} {n k : Nat} {more : List Move} (h : s.hearsOk (n + k) more) :
    ∃ mid, s.hearsOk n mid ∧ ∀ s' : State, s'.env.script = mid → s'.hearsOk k more := by
  obtain ⟨ms, h1, h2, h3⟩ := h
  refine ⟨ms.drop n ++ more, ⟨ms.take n, ?_, ?_, ?_⟩, fun s' hs' => ⟨ms.drop n, hs', ?_, ?_⟩⟩
  · rw [h1, ← List.append_assoc, List.take_append_drop]
  · simp [h2]
  · exact fun m hm => h3 m (List.mem_of_mem_take hm)
  · simp [h2]
  · exact fun m hm => h3 m (List.mem_of_mem_drop hm)

theorem State.hearsIdle_split {s : State} {n k : Nat} {more : List Move} (h : s.hearsIdle (n + k) more) :
    ∃ mid, s.hearsIdle n mid ∧ ∀ s' : State, s'.env.script = mid → s'.rev = s.rev → s'.hearsIdle k more := by
  obtain ⟨ms, h1, h2, h3⟩ := h
  refine ⟨ms.drop n ++ more, ⟨ms.take n, ?_, ?_, ?_⟩, fun s' hs' hr => ⟨ms.drop n, hs', ?_, ?_⟩⟩
  · rw [h1, ← List.append_assoc, List.take_append_drop]
  · simp [h2]
  · exact fun m hm => h3 m (List.mem_of_mem_take hm)
  · simp [h2]
  · intro m hm
    rw [hr]
    exact h3 m (List.mem_of_mem_drop hm)

/-- No answer is needed for an empty stretch. -/
theorem State.hearsOk_zero {s : State} {more : List Move} (h : s.hearsOk 0 more) : s.env.script = more := by
  obtain ⟨ms, h1, h2, -⟩ := h
  simpa [List.length_eq_zero_iff.mp h2] using h1

theorem State.hearsOk_succ {s : State} {n : Nat} {more : List Move} (h : s.hearsOk (n + 1) more) :
    ∃ l mid, s.env.script = .ok l :: mid ∧ ∀ s' : State, s'.env.script = mid → s'.hearsOk n more := by
  obtain ⟨ms, h1, h2, h3⟩ := h
  cases ms with
  | nil => simp at h2
  | cons m ms =>
    obtain ⟨l, hl⟩ := h3 m (by simp)
    refine ⟨l, ms ++ more, by simp [h1, hl], fun s' hs' => ⟨ms, hs', by simpa using h2, ?_⟩⟩
    exact fun m hm => h3 m (by simp [hm])

theorem perform_pinSet_ok {s : State} {p : Pin} {l l' : Level} {mid : List Move} (rest : List Item)
    (h : s.env.script = .ok l' :: mid) :
    perform (.issue (.pinSet p l)) rest s =
      .go { s.after (evPin p l) (s.pins.set p l) mid with pend := none } := by
  simp only [perform]
  rw [settle_of_script rfl _ h]
  rfl

theorem perform_byteOut_ok {s : State} {b : Byte} {l' : Level} {mid : List Move} (rest : List Item)
    (h : s.env.script = .ok l' :: mid) :
    perform (.issue (.byteOut b)) rest s =
      .go { s.after (evBytes [b]) s.pins mid with pend := none } := by
  simp only [perform]
  rw [settle_of_script rfl _ h]
  rfl

theorem perform_delay {s : State} (us : Nat) (rest : List Item) (h : ∀ env, s.env.next ≠ some (.reset, env)) :
    perform (.issue (.delay us)) rest s = .go (s.record (.delay us) .ok) :=
  settle_delay us rest h

theorem State.with_pend_none {s : State} (h : s.pend = none) : { s with pend := none } = s := by
  cases s
  simp_all

/-- The bytes of a frame, all accepted. -/
theorem run_bytes (bytes : List Byte) (rest : List Item) (s : State) (more : List Move)
    (h : s.hearsOk bytes.length more) (hp : s.pend = none) :
    run (bytes.map (fun b => Item.issue (.byteOut b)) ++ rest) s = run rest (s.after (evBytes bytes) s.pins more) := by
  induction bytes generalizing s with
  | nil =>
    have := State.hearsOk_zero (by simpa using h)
    simp [State.after, evBytes, ← this]
  | cons b bytes ih =>
    obtain ⟨l, mid, hs, hn⟩ := State.hearsOk_succ (by simpa using h)
    rw [List.map_cons, List.cons_append, run_cons_go (perform_byteOut_ok _ hs), ih _ (hn _ rfl) rfl]
    congr 1
    simp [State.after, evBytes, hp]

/-- A whole frame, all accepted (spec/40_framer.md R125). -/
theorem run_frame (dcl : Level) (bytes : List Byte) (rest : List Item) (s : State) (more : List Move)
    (h : s.hearsOk (bytes.length + 3) more) (hp : s.pend = none) :
    run (frame dcl bytes ++ rest) s =
      run rest (s.after (evPin .csN .low ++ evPin .dc dcl ++ evBytes bytes ++ evPin .csN .high)
        { s.pins with csN := .high, dc := dcl } more) := by
  obtain ⟨l₁, m₁, h₁, n₁⟩ := State.hearsOk_succ (n := bytes.length + 2) (by simpa using h)
  obtain ⟨l₂, m₂, h₂, n₂⟩ := State.hearsOk_succ (n := bytes.length + 1) (n₁ { s with env := ⟨m₁, []⟩ } rfl)
  obtain ⟨m₃, h₃, n₃⟩ := State.hearsOk_split (n := bytes.length) (k := 1) (n₂ { s with env := ⟨m₂, []⟩ } rfl)
  obtain ⟨l₄, m₄, h₄, n₄⟩ := State.hearsOk_succ (n := 0) (n₃ { s with env := ⟨m₃, []⟩ } rfl)
  have hm : m₄ = more := State.hearsOk_zero (n₄ { s with env := ⟨m₄, []⟩ } rfl)
  subst hm
  simp only at h₂ h₄
  unfold frame
  simp only [List.cons_append, List.nil_append, List.append_assoc]
  rw [run_cons_go (perform_pinSet_ok _ h₁), run_cons_go (perform_pinSet_ok _ h₂), run_bytes _ _ _ m₃ _ rfl,
    run_cons_go (perform_pinSet_ok (mid := m₄) (l' := l₄) _ h₄)]
  · congr 1
    simp [State.after, Pins.set, hp]
  · obtain ⟨ms, a, b, c⟩ := h₃
    exact ⟨ms, a, b, c⟩

end Sys2Proof.Machine
end

