-- ==== Sys2Proof/Laws/Framer.lean ====
section
/-! SUPPORT. The framing primitives, the busy poll, the shadow writes and the RAM write sequence under answers that are all
Ok: each runs to its end and leaves the events the spec prints. -/

namespace Sys2Proof.Machine

@[simp] theorem lo8_ofNat16 (n : Nat) : lo8 (BitVec.ofNat 16 n).toNat = lo8 n := by
  apply BitVec.eq_of_toNat_eq
  simp only [lo8, BitVec.toNat_ofNat]
  omega

@[simp] theorem hi8_ofNat16 (n : Nat) : hi8 (BitVec.ofNat 16 n).toNat = hi8 n := by
  apply BitVec.eq_of_toNat_eq
  simp only [hi8, BitVec.toNat_ofNat]
  omega

@[simp] theorem lo8_mod (n : Nat) : lo8 (n % 65536) = lo8 n := lo8_ofNat16 n

@[simp] theorem hi8_mod (n : Nat) : hi8 (n % 65536) = hi8 n := hi8_ofNat16 n

/-! Stretches that issue no transaction. -/

theorem run_latch (w : ShadowWrite) (rest : List Item) (s : State) :
    run (.latch w :: rest) s = run rest (s.latch w) := rfl

theorem run_compose (v : Byte) (rest : List Item) (s : State) :
    run (.compose v :: rest) s = run rest { s with duc2Acc := v } := rfl

theorem run_setPower (p : PowerState) (rest : List Item) (s : State) :
    run (.setPower p :: rest) s = run rest { s with pstate := p } := rfl

theorem run_setRefresh (m : RefreshMode) (rest : List Item) (s : State) :
    run (.setRefresh m :: rest) s = run rest { s with refresh := m } := rfl

theorem run_finish (rest : List Item) (s : State) : run (.finish :: rest) s = .stop s.complete := rfl

/-! Frames. -/

/-- `send_command(op)` (spec/40_framer.md R126). -/
theorem run_sendCommand (op : Byte) (rest : List Item) (s : State) (more : List Move)
    (h : s.hearsOk 4 more) (hp : s.pend = none) :
    run (sendCommand op ++ rest) s = run rest (s.after (evCmd op) s.pins.afterCommand more) :=
  run_frame .low [op] rest s more h hp

/-- `send_data(s)` (R128). -/
theorem run_sendData (bytes : List Byte) (rest : List Item) (s : State) (more : List Move)
    (h : s.hearsOk (bytes.length + 3) more) (hp : s.pend = none) :
    run (sendData bytes ++ rest) s = run rest (s.after (evDat bytes) s.pins.afterData more) :=
  run_frame .high bytes rest s more h hp

/-- `send_command_with_data(op, s)` (R127). -/
theorem run_sendCommandWithData (op : Byte) (bytes : List Byte) (rest : List Item) (s : State) (more : List Move)
    (h : s.hearsOk (bytes.length + 7) more) (hp : s.pend = none) :
    run (sendCommandWithData op bytes ++ rest) s =
      run rest (s.after (evCmd op ++ evDat bytes) s.pins.afterData more) := by
  obtain ⟨mid, h₁, h₂⟩ := State.hearsOk_split (n := 4) (k := bytes.length + 3)
    (by rwa [show 4 + (bytes.length + 3) = bytes.length + 7 by omega])
  rw [sendCommandWithData, List.append_assoc, run_sendCommand op _ s mid h₁ hp, run_sendData bytes rest _ more,
    State.after_after]
  · rfl
  · exact h₂ _ rfl
  · exact hp

/-- `wait_until_idle()` whose first sample is idle (R130). -/
theorem run_waitUntilIdle (rest : List Item) (s : State) (more : List Move)
    (h : s.hearsIdle 1 more) (hp : s.pend = none) :
    run (waitUntilIdle ++ rest) s = run rest ({ s with polls := some 0 }.after evWaitOk s.pins more) := by
  obtain ⟨ms, h₁, h₂, h₃⟩ := h
  obtain ⟨m, rfl⟩ := List.length_eq_one_iff.mp h₂
  obtain ⟨l, rfl, hl⟩ := h₃ m (by simp)
  have hlow : l = .low := by
    cases l with
    | low => rfl
    | high => cases hr : s.rev <;> simp [isBusy, profileOf, hr] at hl
  subst hlow
  simp only [List.singleton_append] at h₁
  have step₁ : perform (.issue .pinGet) rest { s with polls := some 0 } =
      .go ({ s with polls := some 0 }.after evWaitOk s.pins more) := by
    simp only [perform]
    rw [settle_of_script (s := { s with polls := some 0 }) rfl rest h₁]
    simp [moved, answeredOk, sampled, State.record, hl, State.after, evWaitOk, evSample, hp]
  exact run_cons_go step₁

/-- `hardware_reset(low_us, high_us)`, no engine reset coming in the second delay (R129). -/
theorem run_hardwareReset (lowUs highUs : Nat) (rest : List Item) (s : State) (more : List Move)
    (h : s.hearsOk 2 more) 
    (hn : ∀ env, ({ s.env with script := more } : Env).next ≠ some (.reset, env)) (hp : s.pend = none) :
    run (hardwareReset lowUs highUs ++ rest) s =
      run rest (s.after (evPin .rstN .low ++ evDelay lowUs ++ evPin .rstN .high ++ evDelay highUs)
        { s.pins with rstN := .high } more) := by
  obtain ⟨l₁, m₁, h₁, n₁⟩ := State.hearsOk_succ h
  obtain ⟨l₂, m₂, h₂, n₂⟩ := State.hearsOk_succ (n₁ { s with env := ⟨m₁, []⟩ } rfl)
  have hm : m₂ = more := State.hearsOk_zero (n₂ { s with env := ⟨m₂, []⟩ } rfl)
  subst hm
  simp only at h₂
  simp only [hardwareReset, List.cons_append, List.nil_append]
  rw [run_cons_go (perform_pinSet_ok _ h₁)]
  rw [run_cons_go (perform_delay lowUs _ (Env.next_ne_reset_of_script (m := .ok l₂) (more := m₂) h₂ nofun))]
  rw [run_cons_go (perform_pinSet_ok (mid := m₂) (l' := l₂) _ (by simpa [State.record, State.after] using h₂))]
  rw [run_cons_go (perform_delay highUs _ hn)]
  congr 1
  simp [State.after, State.record, Pins.set, hp, evPin, evDelay, okEvent]

/-! RAM addressing. -/

/-- `set_ram_area` (spec/42_ram_addressing.md R180). -/
theorem run_setRamArea (r : Rect) (rest : List Item) (s : State) (more : List Move)
    (h : s.hearsOk 20 more) (hp : s.pend = none) :
    run (setRamArea r ++ rest) s =
      run rest ({ s with shadow := { s.shadow with
          winXS := xUnits r.startX, winXE := xUnits r.endX,
          winYS := BitVec.ofNat 16 r.startY, winYE := BitVec.ofNat 16 r.endY } }.after
        (evArea r) s.pins.afterData more) := by
  obtain ⟨mid, h₁, h₂⟩ := State.hearsOk_split (n := 9) (k := 11) h
  simp only [setRamArea, setRamXWindow, setRamYWindow, List.append_assoc, List.cons_append, List.nil_append,
    lo8_ofNat16, hi8_ofNat16]
  rw [run_sendCommandWithData _ _ _ s mid, run_latch, run_sendCommandWithData _ _ _ _ more, run_latch]
  · congr 1
    simp [State.after, State.latch, Shadow.put, evArea, Pins.afterData]
  · exact h₂ _ rfl
  · exact hp
  · exact h₁
  · exact hp

/-- `set_ram_address_counters` with an idle first sample (R181). -/
theorem run_setRamAddressCounters (x y : Nat) (rest : List Item) (s : State) (more : List Move)
    (h : s.hearsIdle 18 more) (hp : s.pend = none) :
    run (setRamAddressCounters x y ++ rest) s =
      run rest ({ s with polls := some 0, shadow := { s.shadow with curX := xUnits x, curY := BitVec.ofNat 16 y } }.after
        (evCounters x y) s.pins.afterData more) := by
  obtain ⟨mid, h₁, h₂⟩ := State.hearsIdle_split (n := 1) (k := 17) h
  obtain ⟨mid', h₃, h₄⟩ := State.hearsOk_split (n := 8) (k := 9)
    (State.hearsOk_of_idle (h₂ ({ s with polls := some 0 }.after evWaitOk s.pins mid) rfl rfl))
  simp only [setRamAddressCounters, setRamXCounter, setRamYCounter, List.append_assoc, List.cons_append,
    List.nil_append, lo8_ofNat16, hi8_ofNat16]
  rw [run_waitUntilIdle _ s mid h₁ hp, run_sendCommandWithData _ _ _ _ mid', run_latch,
    run_sendCommandWithData _ _ _ _ more, run_latch]
  · congr 1
    simp [State.after, State.latch, Shadow.put, evCounters, Pins.afterData]
  · exact h₄ _ rfl
  · exact hp
  · exact h₃
  · exact hp

/-- The window and the cursor before the data (R182). -/
theorem run_openWindow (r : Rect) (rest : List Item) (s : State) (more : List Move)
    (h : s.hearsIdle 38 more) (hp : s.pend = none) :
    run (openWindow r ++ rest) s =
      run rest ({ s with polls := some 0, shadow := shadowOf r }.after
        (evArea r ++ evCounters r.startX r.startY) s.pins.afterData more) := by
  obtain ⟨mid, h₁, h₂⟩ := State.hearsIdle_split (n := 20) (k := 18) h
  simp only [openWindow, List.append_assoc]
  rw [run_setRamArea r _ s mid (State.hearsOk_of_idle h₁) hp, run_setRamAddressCounters _ _ _ _ more]
  · congr 1
    simp [State.after, shadowOf, Pins.afterData]
  · exact h₂ _ rfl rfl
  · exact hp

/-- `ram_write(0x24, rect, s)` (R182, R183). -/
theorem run_ramWriteA (r : Rect) (bytes : List Byte) (rest : List Item) (s : State) (more : List Move)
    (h : s.hearsIdle (45 + bytes.length) more) (hp : s.pend = none) :
    run (ramWriteA r bytes ++ rest) s =
      run rest ({ s with polls := some 0, shadow := shadowOf r }.after
        (evRamWrite 0x24#8 r bytes) s.pins.afterData more) := by
  obtain ⟨mid, h₁, h₂⟩ := State.hearsIdle_split (n := 38) (k := bytes.length + 7)
    (by rwa [show 38 + (bytes.length + 7) = 45 + bytes.length by omega])
  simp only [ramWriteA, writeRamBw, List.append_assoc]
  rw [run_openWindow r _ s mid h₁ hp, run_sendCommandWithData _ _ _ _ more]
  · congr 1
    simp [State.after, evRamWrite, Pins.afterData]
  · exact State.hearsOk_of_idle (h₂ _ rfl rfl)
  · exact hp

/-- `ram_write(0x26, rect, s)` (R182, R183). -/
theorem run_ramWriteC (r : Rect) (bytes : List Byte) (rest : List Item) (s : State) (more : List Move)
    (h : s.hearsIdle (45 + bytes.length) more) (hp : s.pend = none) :
    run (ramWriteC r bytes ++ rest) s =
      run rest ({ s with polls := some 0, shadow := shadowOf r }.after
        (evRamWrite 0x26#8 r bytes) s.pins.afterData more) := by
  obtain ⟨mid, h₁, h₂⟩ := State.hearsIdle_split (n := 38) (k := bytes.length + 7)
    (by rwa [show 38 + (bytes.length + 7) = 45 + bytes.length by omega])
  simp only [ramWriteC, writeRamRed, List.append_assoc]
  rw [run_openWindow r _ s mid h₁ hp, run_sendCommandWithData _ _ _ _ more]
  · congr 1
    simp [State.after, evRamWrite, Pins.afterData]
  · exact State.hearsOk_of_idle (h₂ _ rfl rfl)
  · exact hp

end Sys2Proof.Machine
end

