-- ==== Sys2Proof/Laws/Run.lean ====
section
/-! SUPPORT. Everything a transaction's answer and a stretch of a sequence can do, whatever the transport answers: the
inversion lemmas that the invariants and the frames are read from. -/

namespace Sys2Proof.Machine

/-- What the outside still has to say after a transaction: nothing was taken, or one move was. -/
def Env.follows (e e' : Env) : Prop := e' = e ∨ ∃ m, e.next = some (m, e')

theorem Env.next_mem {e e' : Env} {m : Move} (h : e.next = some (m, e')) :
    (m ∈ e.script ∨ m ∈ e.loop) ∧ (∀ x ∈ e'.script, x ∈ e.script ∨ x ∈ e.loop) ∧ e'.loop = e.loop := by
  unfold Env.next at h
  split at h
  · cases h
    simp_all
  · split at h
    · cases h
    · cases h
      simp_all

/-- Everything the answer to a transaction can do: the machine goes on with the event recorded; or the engine waits, for the
same transaction or for the poll interval; or the operation ends with BUS_ERROR or PANEL_TIMEOUT; or the engine is reset. -/
inductive Settled (t : Transaction) (rest : List Item) (s : State) : Turn → Prop
  | went (env : Env) (a : Answer) (pins : Pins) (polls : Option Nat) (henv : s.env.follows env)
      (hpolls : polls = s.polls ∨ t = .pinGet) (hpins : pins = s.pins ∨ ∃ p l, t = .pinSet p l ∧ pins = s.pins.set p l) :
      Settled t rest s (.go { s with
        env := env, trace := s.trace ++ [Event.mk t a], pend := none, pins := pins, polls := polls })
  | waits (env : Env) (henv : s.env.follows env) (hasked : t.isAsked = true) :
      Settled t rest s (.stop ({ s with env := env }.await t rest))
  | busy (env : Env) (n : Nat) (henv : s.env.follows env) (hget : t = .pinGet)
      (hlimit : limitReached s.params.busyPollLimit n = false) :
      Settled t rest s (.stop ({ s with
        env := env, trace := s.trace ++ [Event.mk t (.level .high)], polls := some n, pend := none }.await
          (.delay s.params.pollIntervalUs) (.issue .pinGet :: rest)))
  | failed (env : Env) (a : Answer) (polls : Option Nat) (code : Status) (info : Nat) (henv : s.env.follows env)
      (hcode : code = .busError ∨ code = .panelTimeout) :
      Settled t rest s (.stop ({ s with
        env := env, trace := s.trace ++ [Event.mk t a], polls := polls, pend := none }.raise code info))
  | cut (env : Env) (henv : s.env.next = some (.reset, env)) :
      Settled t rest s (.stop ({ s with
        env := env, trace := s.trace ++ [Event.mk t .cut], pend := none }.engineReset))

theorem isBusy_iff (rev : Rev) (l : Level) : isBusy rev l = true ↔ l = .high := by
  cases rev <;> cases l <;> decide

theorem settle_settled (t : Transaction) (rest : List Item) (s : State) : Settled t rest s (settle t rest s) := by
  cases ht : t.isAsked with
  | false =>
    cases t with
    | delay us =>
      simp only [settle]
      split
      · exact .cut _ ‹_›
      · exact .went s.env .ok s.pins s.polls (.inl rfl) (.inl rfl) (.inl rfl)
    | _ => simp [Transaction.isAsked] at ht
  | true =>
    rw [settle_asked ht]
    cases hn : s.env.next with
    | none => exact .waits s.env (.inl rfl) ht
    | some me =>
      obtain ⟨m, env⟩ := me
      have hf : s.env.follows env := .inr ⟨m, hn⟩
      cases m with
      | err e => exact .failed env (.err e) s.polls .busError e hf (.inl rfl)
      | wait => exact .waits env hf ht
      | reset => exact .cut env hn
      | ok l =>
        cases t with
        | delay us => simp [Transaction.isAsked] at ht
        | pinSet p lv => exact .went env .ok _ s.polls hf (.inl rfl) (.inr ⟨p, lv, rfl, rfl⟩)
        | byteOut b => exact .went env .ok s.pins s.polls hf (.inl rfl) (.inl rfl)
        | pinGet =>
          simp only [moved, answeredOk, sampled, State.record]
          cases hb : isBusy s.rev l with
          | false => exact .went env (.level l) s.pins s.polls hf (.inl rfl) (.inl rfl)
          | true =>
            obtain rfl := (isBusy_iff _ _).mp hb
            simp only [busySample, Option.getD_some]
            cases hl : limitReached s.params.busyPollLimit (s.polls.getD 0 + 1) with
            | true => exact .failed env (.level .high) _ .panelTimeout 0 hf (.inr rfl)
            | false => exact .busy env _ hf rfl hl

/-! What a stretch leaves unchanged. -/

/-- What a stretch of a sequence leaves unchanged, whether it goes on or stops, if no engine reset is to come: each register
but those its own items write. -/
structure Kept (items : List Item) (s t : State) : Prop where
  rev : t.rev = s.rev
  params : t.params = s.params
  host : t.host = s.host
  noReset : t.noReset
  refresh : (∀ m, .setRefresh m ∉ items) → t.refresh = s.refresh
  bg : t.bg = s.bg
  result : t.result = s.result
  duc2Acc : (∀ v, .compose v ∉ items) → t.duc2Acc = s.duc2Acc
  shadow : (∀ w, .latch w ∉ items) → t.shadow = s.shadow
  trace : ∃ evs, t.trace = s.trace ++ evs

/-- What a stretch leaves unchanged besides when it goes on. -/
structure KeptGoing (items : List Item) (s t : State) : Prop extends Kept items s t where
  code : t.code = s.code
  active : t.active = s.active
  errInfo : t.errInfo = s.errInfo
  req : t.req = s.req
  seq : t.seq = s.seq
  pstate : (∀ p, .setPower p ∉ items) → t.pstate = s.pstate

/-- What a stretch leaves unchanged besides when it stops: the engine waits, or the operation has ended. -/
structure KeptStopping (items : List Item) (s t : State) : Prop extends Kept items s t where
  errInfo : t.code ≠ .busError → t.errInfo = s.errInfo
  ended : t.active = false ∨ (t.active = s.active ∧ t.code = s.code ∧ t.errInfo = s.errInfo ∧ t.req = s.req
    ∧ ((∀ p, .setPower p ∉ items) → t.pstate = s.pstate))
  pstate : (∀ p, .setPower p ∉ items) → t.pstate = s.pstate ∨ isPowerRequest s.req = true
  waiting : t.active = false ∨ ∃ x, t.pend = some x

theorem Env.noReset_follows {s : State} {env : Env} (h : s.noReset) (hf : s.env.follows env) :
    Move.reset ∉ env.script ∧ Move.reset ∉ env.loop := by
  obtain rfl | ⟨m, hm⟩ := hf
  · exact h
  · obtain ⟨-, h₂, h₃⟩ := Env.next_mem hm
    exact ⟨fun hr => (h₂ _ hr).elim h.1 h.2, fun hr => h.2 (h₃ ▸ hr)⟩

theorem raise_pstate (s : State) (code : Status) (info : Nat) :
    (s.raise code info).pstate = s.pstate ∨ isPowerRequest s.req = true := by
  cases h : failsPower s.req code with
  | false => exact .inl (by simp [State.raise, powerAfter, h])
  | true =>
    simp only [failsPower, Bool.and_eq_true] at h
    exact .inr h.1

theorem perform_kept (item : Item) (rest : List Item) (s : State) (h : s.noReset) :
    match perform item rest s with
    | .go t => KeptGoing [item] s t
    | .stop t => KeptStopping [item] s t := by
  cases item with
  | issue t =>
    simp only [perform]
    have hs := settle_settled t rest s
    generalize settle t rest s = turn at hs
    cases hs with
    | went env a pins polls henv =>
      exact ⟨⟨rfl, rfl, rfl, Env.noReset_follows h henv, fun _ => rfl, rfl, rfl, fun _ => rfl, fun _ => rfl, _, rfl⟩,
        rfl, rfl, rfl, rfl, rfl, fun _ => rfl⟩
    | waits env henv =>
      exact ⟨⟨rfl, rfl, rfl, Env.noReset_follows h henv, fun _ => rfl, rfl, rfl, fun _ => rfl, fun _ => rfl, [],
        by simp [State.await]⟩, fun _ => rfl, .inr ⟨rfl, rfl, rfl, rfl, fun _ => rfl⟩, fun _ => .inl rfl, .inr ⟨_, rfl⟩⟩
    | busy env n henv =>
      exact ⟨⟨rfl, rfl, rfl, Env.noReset_follows h henv, fun _ => rfl, rfl, rfl, fun _ => rfl, fun _ => rfl, _, rfl⟩,
        fun _ => rfl, .inr ⟨rfl, rfl, rfl, rfl, fun _ => rfl⟩, fun _ => .inl rfl, .inr ⟨_, rfl⟩⟩
    | failed env a polls code info henv =>
      refine ⟨⟨rfl, rfl, rfl, Env.noReset_follows h henv, fun _ => rfl, rfl, rfl, fun _ => rfl, fun _ => rfl, _, rfl⟩,
        ?_, .inl rfl, fun _ => raise_pstate { s with
          env := env, trace := s.trace ++ [Event.mk t a], polls := polls, pend := none } code info, .inl rfl⟩
      intro hc
      simp only [State.raise, State.endOperation] at hc
      simp [State.raise, errInfoAfter, hc]
    | cut env henv => exact absurd (Env.next_mem henv).1 (not_or.mpr h)
  | startPoll =>
    exact ⟨⟨rfl, rfl, rfl, h, fun _ => rfl, rfl, rfl, fun _ => rfl, fun _ => rfl, [], by simp⟩,
      rfl, rfl, rfl, rfl, rfl, fun _ => rfl⟩
  | latch w =>
    exact ⟨⟨rfl, rfl, rfl, h, fun _ => rfl, rfl, rfl, fun _ => rfl, fun hw => absurd (List.mem_singleton.mpr rfl) (hw w), [],
      by simp⟩, rfl, rfl, rfl, rfl, rfl, fun _ => rfl⟩
  | compose v =>
    exact ⟨⟨rfl, rfl, rfl, h, fun _ => rfl, rfl, rfl, fun hv => absurd (List.mem_singleton.mpr rfl) (hv v), fun _ => rfl, [],
      by simp⟩, rfl, rfl, rfl, rfl, rfl, fun _ => rfl⟩
  | setPower p =>
    exact ⟨⟨rfl, rfl, rfl, h, fun _ => rfl, rfl, rfl, fun _ => rfl, fun _ => rfl, [], by simp⟩,
      rfl, rfl, rfl, rfl, rfl, fun hp => absurd (List.mem_singleton.mpr rfl) (hp p)⟩
  | setRefresh m =>
    exact ⟨⟨rfl, rfl, rfl, h, fun hm => absurd (List.mem_singleton.mpr rfl) (hm m), rfl, rfl, fun _ => rfl, fun _ => rfl, [],
      by simp⟩, rfl, rfl, rfl, rfl, rfl, fun _ => rfl⟩
  | finish =>
    exact ⟨⟨rfl, rfl, rfl, h, fun _ => rfl, rfl, rfl, fun _ => rfl, fun _ => rfl, [], by simp⟩,
      fun _ => rfl, .inl rfl, fun _ => .inl rfl, .inl rfl⟩

theorem Kept.trans {a b : List Item} {s t u : State} (h₁ : Kept a s t) (h₂ : Kept b t u) : Kept (a ++ b) s u := by
  refine ⟨h₂.rev.trans h₁.rev, h₂.params.trans h₁.params, h₂.host.trans h₁.host, h₂.noReset, ?_, h₂.bg.trans h₁.bg,
    h₂.result.trans h₁.result, ?_, ?_, ?_⟩
  · intro h
    simp only [List.mem_append, not_or] at h
    exact (h₂.refresh fun m => (h m).2).trans (h₁.refresh fun m => (h m).1)
  · intro h
    simp only [List.mem_append, not_or] at h
    exact (h₂.duc2Acc fun m => (h m).2).trans (h₁.duc2Acc fun m => (h m).1)
  · intro h
    simp only [List.mem_append, not_or] at h
    exact (h₂.shadow fun m => (h m).2).trans (h₁.shadow fun m => (h m).1)
  · obtain ⟨e₁, h₁⟩ := h₁.trace
    obtain ⟨e₂, h₂⟩ := h₂.trace
    exact ⟨e₁ ++ e₂, by rw [h₂, h₁, List.append_assoc]⟩

theorem KeptGoing.refl {s : State} (h : s.noReset) : KeptGoing [] s s :=
  ⟨⟨rfl, rfl, rfl, h, fun _ => rfl, rfl, rfl, fun _ => rfl, fun _ => rfl, [], by simp⟩,
    rfl, rfl, rfl, rfl, rfl, fun _ => rfl⟩

theorem KeptGoing.trans {a b : List Item} {s t u : State} (h₁ : KeptGoing a s t) (h₂ : KeptGoing b t u) :
    KeptGoing (a ++ b) s u := by
  refine ⟨h₁.toKept.trans h₂.toKept, h₂.code.trans h₁.code, h₂.active.trans h₁.active, h₂.errInfo.trans h₁.errInfo,
    h₂.req.trans h₁.req, h₂.seq.trans h₁.seq, fun h => ?_⟩
  simp only [List.mem_append, not_or] at h
  exact (h₂.pstate fun p => (h p).2).trans (h₁.pstate fun p => (h p).1)

theorem KeptGoing.stopping {a b : List Item} {s t u : State} (h₁ : KeptGoing a s t) (h₂ : KeptStopping b t u) :
    KeptStopping (a ++ b) s u := by
  refine ⟨h₁.toKept.trans h₂.toKept, fun hc => (h₂.errInfo hc).trans h₁.errInfo, ?_, fun h => ?_, h₂.waiting⟩
  · obtain h | ⟨ha, hc, he, hr, hp⟩ := h₂.ended
    · exact .inl h
    · refine .inr ⟨ha.trans h₁.active, hc.trans h₁.code, he.trans h₁.errInfo, hr.trans h₁.req, fun h => ?_⟩
      simp only [List.mem_append, not_or] at h
      exact (hp fun p => (h p).2).trans (h₁.pstate fun p => (h p).1)
  · simp only [List.mem_append, not_or] at h
    rw [← h₁.req, ← h₁.pstate fun p => (h p).1]
    exact h₂.pstate fun p => (h p).2

theorem KeptStopping.weaken {a b : List Item} {s t : State} (h : KeptStopping a s t) (hab : a ⊆ b) :
    KeptStopping b s t :=
  ⟨⟨h.rev, h.params, h.host, h.noReset, fun hm => h.refresh fun m hx => hm m (hab hx), h.bg, h.result,
      fun hm => h.duc2Acc fun m hx => hm m (hab hx), fun hm => h.shadow fun m hx => hm m (hab hx), h.trace⟩,
    h.errInfo,
    h.ended.imp id fun ⟨ha, hc, he, hr, hp⟩ => ⟨ha, hc, he, hr, fun hm => hp fun m hx => hm m (hab hx)⟩,
    fun hm => h.pstate fun m hx => hm m (hab hx), h.waiting⟩

/-- What a whole stretch leaves unchanged. -/
theorem run_kept (items : List Item) (s : State) (h : s.noReset) :
    match run items s with
    | .go t => KeptGoing items s t
    | .stop t => KeptStopping items s t := by
  induction items generalizing s with
  | nil => exact .refl h
  | cons item items ih =>
    rw [run_cons]
    have hp := perform_kept item items s h
    cases hT : perform item items s with
    | stop t =>
      rw [hT] at hp
      exact hp.weaken (by simp)
    | go t =>
      rw [hT] at hp
      have ht := ih t hp.noReset
      simp only
      cases hR : run items t with
      | go u =>
        rw [hR] at ht
        exact hp.trans ht
      | stop u =>
        rw [hR] at ht
        exact hp.stopping ht

/-- Taking the pending transaction's answer and going on is running the transaction ahead of the stretch. -/
theorem proceed_of_pend {s : State} {t : Transaction} (h : s.pend = some t) (own : List Item) :
    proceed own s = run (.issue t :: own) s := by
  simp only [proceed, h, run_cons, perform]
  all_goals rfl

theorem proceed_of_none {s : State} (h : s.pend = none) (own : List Item) : proceed own s = run own s := by
  simp only [proceed, h]

/-! How a stretch ends, whatever the transport answers (an engine reset too). -/

@[simp] theorem shadowAfter_append (a b : List Item) (sh : Shadow) :
    shadowAfter (a ++ b) sh = shadowAfter b (shadowAfter a sh) := by
  induction a generalizing sh with
  | nil => rfl
  | cons x a ih => cases x <;> simp [shadowAfter, ih]

@[simp] theorem duc2After_append (a b : List Item) (v : Byte) : duc2After (a ++ b) v = duc2After b (duc2After a v) := by
  induction a generalizing v with
  | nil => rfl
  | cons x a ih => cases x <;> simp [duc2After, ih]

/-- A stretch that goes on leaves ACTIVE, REQ and what follows it alone, and nothing pending if nothing was. -/
structure Goes (s t : State) : Prop where
  active : t.active = s.active
  req : t.req = s.req
  code : t.code = s.code
  seq : t.seq = s.seq
  pend : s.pend = none → t.pend = none

/-- Where a stretch waits: at one of its own transactions, what is left of it ahead of what was in SEQ, or in the poll
interval before the next sample. What it has done before writes no register but those its own items write. -/
structure WaitsIn (items : List Item) (s t : State) : Prop where
  active : t.active = s.active
  req : t.req = s.req
  bg : t.bg = s.bg
  rev : t.rev = s.rev
  params : t.params = s.params
  place : ∃ done x left, items = done ++ .issue x :: left
    ∧ ((∀ m, .setRefresh m ∉ done) → t.refresh = s.refresh)
    ∧ ((∀ p, .setPower p ∉ done) → t.pstate = s.pstate)
    ∧ (t.shadow = shadowAfter done s.shadow ∧ t.duc2Acc = duc2After done s.duc2Acc)
    ∧ ((t.pend = some x ∧ x.isAsked = true ∧ t.seq = left ++ s.seq)
      ∨ (x = .pinGet ∧ t.pend = some (.delay s.params.pollIntervalUs) ∧ t.seq = .issue .pinGet :: left ++ s.seq
        ∧ ∃ n, t.polls = some n ∧ limitReached s.params.busyPollLimit n = false))

/-- Where a stretch stops: it waits, or ACTIVE is 0 and nothing is held of the operation. -/
def Stops (items : List Item) (s t : State) : Prop :=
  WaitsIn items s t ∨ (t.active = false ∧ t.req = none ∧ t.seq = [] ∧ t.polls = none ∧ t.pend = none)

theorem perform_ends (item : Item) (rest : List Item) (s : State) :
    match perform item rest s with
    | .go t => Goes s t ∧ t.rev = s.rev ∧ t.params = s.params ∧ t.bg = s.bg
        ∧ ((∀ m, .setRefresh m ≠ item) → t.refresh = s.refresh) ∧ ((∀ p, .setPower p ≠ item) → t.pstate = s.pstate)
        ∧ t.shadow = shadowAfter [item] s.shadow ∧ t.duc2Acc = duc2After [item] s.duc2Acc
    | .stop t => Stops (item :: rest) s t := by
  cases item with
  | issue t =>
    simp only [perform]
    have hs := settle_settled t rest s
    generalize settle t rest s = turn at hs
    cases hs with
    | went => exact ⟨⟨rfl, rfl, rfl, rfl, fun _ => rfl⟩, rfl, rfl, rfl, fun _ => rfl, fun _ => rfl, rfl, rfl⟩
    | waits env henv hasked =>
      exact .inl ⟨rfl, rfl, rfl, rfl, rfl, [], t, rest, rfl, fun _ => rfl, fun _ => rfl, ⟨rfl, rfl⟩,
        .inl ⟨rfl, hasked, rfl⟩⟩
    | busy env n henv hget hlimit =>
      exact .inl ⟨rfl, rfl, rfl, rfl, rfl, [], t, rest, rfl, fun _ => rfl, fun _ => rfl, ⟨rfl, rfl⟩,
        .inr ⟨hget, rfl, rfl, n, rfl, hlimit⟩⟩
    | failed => exact .inr ⟨rfl, rfl, rfl, rfl, rfl⟩
    | cut => exact .inr ⟨rfl, rfl, rfl, rfl, rfl⟩
  | startPoll => exact ⟨⟨rfl, rfl, rfl, rfl, id⟩, rfl, rfl, rfl, fun _ => rfl, fun _ => rfl, rfl, rfl⟩
  | latch w => exact ⟨⟨rfl, rfl, rfl, rfl, id⟩, rfl, rfl, rfl, fun _ => rfl, fun _ => rfl, rfl, rfl⟩
  | compose v => exact ⟨⟨rfl, rfl, rfl, rfl, id⟩, rfl, rfl, rfl, fun _ => rfl, fun _ => rfl, rfl, rfl⟩
  | setPower p => exact ⟨⟨rfl, rfl, rfl, rfl, id⟩, rfl, rfl, rfl, fun _ => rfl, fun h => absurd rfl (h p), rfl, rfl⟩
  | setRefresh m => exact ⟨⟨rfl, rfl, rfl, rfl, id⟩, rfl, rfl, rfl, fun h => absurd rfl (h m), fun _ => rfl, rfl, rfl⟩
  | finish => exact .inr ⟨rfl, rfl, rfl, rfl, rfl⟩

/-- How a whole stretch ends. -/
theorem run_ends (items : List Item) (s : State) :
    match run items s with
    | .go t => Goes s t
    | .stop t => Stops items s t := by
  induction items generalizing s with
  | nil => exact ⟨rfl, rfl, rfl, rfl, id⟩
  | cons item items ih =>
    rw [run_cons]
    have hp := perform_ends item items s
    cases hT : perform item items s with
    | stop t =>
      rw [hT] at hp
      exact hp
    | go t =>
      rw [hT] at hp
      obtain ⟨hg, hrev, hparams, hbg, hrefresh, hpower, hshadow, hduc⟩ := hp
      have ht := ih t
      simp only
      cases hR : run items t with
      | go u =>
        rw [hR] at ht
        exact ⟨ht.active.trans hg.active, ht.req.trans hg.req, ht.code.trans hg.code, ht.seq.trans hg.seq,
          fun h => ht.pend (hg.pend h)⟩
      | stop u =>
        rw [hR] at ht
        obtain hw | hd := ht
        · obtain ⟨done, x, left, rfl, h₁, h₂, ⟨h₄, h₅⟩, h₃⟩ := hw.place
          refine .inl ⟨hw.active.trans hg.active, hw.req.trans hg.req, hw.bg.trans hbg, hw.rev.trans hrev,
            hw.params.trans hparams, item :: done, x, left, rfl, fun h => ?_, fun h => ?_, ⟨?_, ?_⟩, ?_⟩
          · simp only [List.mem_cons, not_or] at h
            exact (h₁ fun m => (h m).2).trans (hrefresh fun m => (h m).1)
          · simp only [List.mem_cons, not_or] at h
            exact (h₂ fun p => (h p).2).trans (hpower fun p => (h p).1)
          · rw [h₄, hshadow, ← shadowAfter_append]; rfl
          · rw [h₅, hduc, ← duc2After_append]; rfl
          · rwa [← hg.seq, ← hparams]
        · exact .inr hd

/-- What a stretch that goes on has written. -/
theorem run_writes (items : List Item) (s t : State) (h : run items s = .go t) :
    t.shadow = shadowAfter items s.shadow ∧ t.duc2Acc = duc2After items s.duc2Acc := by
  induction items generalizing s with
  | nil => cases h; exact ⟨rfl, rfl⟩
  | cons item items ih =>
    rw [run_cons] at h
    have hp := perform_ends item items s
    cases hT : perform item items s with
    | stop u => simp [hT] at h
    | go u =>
      rw [hT] at h hp
      obtain ⟨h₁, h₂⟩ := ih u h
      obtain ⟨-, -, -, -, -, -, h₃, h₄⟩ := hp
      rw [h₁, h₂, h₃, h₄, ← shadowAfter_append, ← duc2After_append]
      exact ⟨rfl, rfl⟩

/-- A property of the state that every element of a stretch keeps, the stretch keeps. -/
theorem run_invariant (P : State → Prop) {items : List Item}
    (h : ∀ item ∈ items, ∀ (rest : List Item) (s : State), P s → P (perform item rest s).state) :
    ∀ s : State, P s → P (run items s).state := by
  induction items with
  | nil => exact fun s hs => hs
  | cons item items ih =>
    intro s hs
    rw [run_cons]
    have hp := h item (by simp) items s hs
    cases hT : perform item items s with
    | stop t => rwa [hT] at hp
    | go t =>
      rw [hT] at hp
      exact ih (fun i hi => h i (by simp [hi])) t hp

end Sys2Proof.Machine
end

