-- ==== Sys2Proof/Laws/Exec.lean ====
section
/-! SUPPORT. exec in terms of the shared operations: a bus command emits its sequence, and a host operation runs its
pre-checks and then its sequence. -/

namespace Sys2Proof.Machine

/-- A well-formed bus command emits its sequence. -/
theorem exec_command {c : Instr} (hb : c.isBus = true) (hw : c.wellFormed = true) (s : State) :
    exec c s = emitCommand (commandItems c) s := by
  have nonempty : ∀ b : List Byte, payloadFits b = true → b ≠ [] := by
    intro b h
    cases b with
    | nil => simp [payloadFits] at h
    | cons x b => simp
  cases c with
  | cmdWriteRamBw b => exact if_neg (nonempty b hw)
  | cmdWriteRamRed b => exact if_neg (nonempty b hw)
  | cmdWriteLut b => exact if_neg (nonempty b hw)
  | _ => first | rfl | (simp [Instr.isBus] at hb)

/-- The LUT of either mode has a byte, if the parameters are as R11 asks. -/
theorem lutPayload_ne_nil {p : Params} (h : p.wf = true) (m : RefreshMode) : lutPayload p m ≠ [] := by
  simp only [Params.wf, Bool.and_eq_true, beq_iff_eq, decide_eq_true_eq] at h
  obtain ⟨⟨⟨⟨-, h₁⟩, h₂⟩, h₃⟩, -⟩ := h
  intro hn
  have := congrArg List.length hn
  cases m <;> simp only [lutPayload, List.length_nil] at this <;> omega

/-- A host operation that issues transactions runs its pre-checks and then its sequence, if no LUT is empty. -/
theorem exec_operation {i : Instr} (hb : i.isBus = false) (hr : isRegisterOp i = false) {s : State}
    (hl : ∀ m, i = .setLut m → lutPayload s.params m ≠ []) :
    exec i s = startOperation i (preCheck i s) (sequenceOf i s) s := by
  cases i with
  | setLut m =>
    simp only [exec, execSetLut, preCheck, sequenceOf, hl m rfl, false_and, if_false]
    cases (profileOf s.rev).supportsLut <;> rfl
  | _ => first | rfl | (simp [Instr.isBus] at hb; done) | simp [isRegisterOp] at hr

/-- A register operation accepts, writes one register and completes. -/
theorem exec_register {i : Instr} (hr : isRegisterOp i = true) (s : State) :
    ∃ write : State → State, exec i s = registerOperation i write s
      ∧ ∀ t : State, (write t).rev = t.rev ∧ (write t).params = t.params ∧ (write t).host = t.host
        ∧ (write t).env = t.env ∧ (write t).trace = t.trace ∧ (write t).pins = t.pins ∧ (write t).pstate = t.pstate
        ∧ (write t).refresh = t.refresh ∧ (write t).duc2Acc = t.duc2Acc ∧ (write t).shadow = t.shadow
        ∧ (write t).errInfo = t.errInfo := by
  cases i with
  | setBackgroundColor c => exact ⟨_, rfl, fun t => ⟨rfl, rfl, rfl, rfl, rfl, rfl, rfl, rfl, rfl, rfl, rfl⟩⟩
  | getBackgroundColor => exact ⟨_, rfl, fun t => ⟨rfl, rfl, rfl, rfl, rfl, rfl, rfl, rfl, rfl, rfl, rfl⟩⟩
  | getWidth => exact ⟨_, rfl, fun t => ⟨rfl, rfl, rfl, rfl, rfl, rfl, rfl, rfl, rfl, rfl, rfl⟩⟩
  | getHeight => exact ⟨_, rfl, fun t => ⟨rfl, rfl, rfl, rfl, rfl, rfl, rfl, rfl, rfl, rfl, rfl⟩⟩
  | _ => simp [isRegisterOp] at hr

end Sys2Proof.Machine
end

