-- ==== Sys2Proof/Laws/Memory.lean ====
section
/-! SUPPORT. Read after write, and that writing keeps the canonical form. -/

namespace Sys2Proof.Machine

@[simp] theorem Memory.read_nil (a : Nat) : Memory.read [] a = none := rfl

theorem Memory.read_cons (k : Nat) (v : Byte) (m : Memory) (a : Nat) :
    Memory.read ((k, v) :: m) a = if k = a then some v else Memory.read m a := rfl

theorem Memory.read_write_same (m : Memory) (a : Nat) (b : Byte) : (m.write a b).read a = some b := by
  induction m with
  | nil => simp [Memory.write, Memory.read_cons]
  | cons c m ih =>
    obtain ⟨k, v⟩ := c
    unfold Memory.write
    split
    · simp [Memory.read_cons]
    · split
      · simp [Memory.read_cons]
      · rename_i h1 h2
        rw [Memory.read_cons, if_neg (fun h => h2 h.symm), ih]

theorem Memory.read_write_other (m : Memory) {a a' : Nat} (b : Byte) (h : a' ≠ a) :
    (m.write a b).read a' = m.read a' := by
  induction m with
  | nil => simp [Memory.write, Memory.read_cons, h.symm]
  | cons c m ih =>
    obtain ⟨k, v⟩ := c
    unfold Memory.write
    split
    · simp [Memory.read_cons, h.symm]
    · split
      · rename_i h1 h2
        subst h2
        simp [Memory.read_cons, h.symm]
      · simp only [Memory.read_cons, ih]

theorem Memory.read_write (m : Memory) (a a' : Nat) (b : Byte) :
    (m.write a b).read a' = if a' = a then some b else m.read a' := by
  split
  · rename_i h
    rw [h, Memory.read_write_same]
  · rename_i h
    exact Memory.read_write_other m b h

theorem Memory.risesAbove_write {lo a : Nat} (m : Memory) (b : Byte) (hlo : lo < a)
    (h : Memory.risesAbove lo m = true) : Memory.risesAbove lo (m.write a b) = true := by
  induction m generalizing lo with
  | nil => simp [Memory.write, Memory.risesAbove, hlo]
  | cons c m ih =>
    obtain ⟨k, v⟩ := c
    simp only [Memory.risesAbove, Bool.and_eq_true, decide_eq_true_eq] at h
    unfold Memory.write
    split
    · simp_all [Memory.risesAbove]
    · split
      · simp_all [Memory.risesAbove]
      · rename_i h1 h2
        simp only [Memory.risesAbove, Bool.and_eq_true, decide_eq_true_eq]
        exact ⟨h.1, ih (by omega) h.2⟩

theorem Memory.wf_nil : Memory.wf [] = true := rfl

/-- Writing keeps the canonical form. -/
theorem Memory.wf_write (m : Memory) (a : Nat) (b : Byte) (h : m.wf = true) : (m.write a b).wf = true := by
  cases m with
  | nil => rfl
  | cons c m =>
    obtain ⟨k, v⟩ := c
    unfold Memory.write
    split
    · rename_i h1
      simp only [Memory.wf, Memory.risesAbove, Bool.and_eq_true, decide_eq_true_eq]
      exact ⟨h1, h⟩
    · split
      · rename_i h1 h2
        subst h2
        exact h
      · rename_i h1 h2
        exact Memory.risesAbove_write m b (by omega) h

end Sys2Proof.Machine
end

