-- ==== Sys2Proof/Laws/PerInstr.lean ====
section
/-! SUPPORT. The families of statements made instruction by instruction (LAWS.json). -/

open Sys2Proof

/-- The number that the opcode table gives the instruction's row (spec/30_encoding.md R93 and R100). -/
def Sys2Proof.Laws.Opcode.number : Instr → Byte
  | .init => 0x01#8
  | .sleep => 0x02#8
  | .setLut _ => 0x03#8
  | .waitIdle => 0x04#8
  | .updateFrame _ => 0x10#8
  | .updatePartialFrame _ _ _ _ _ => 0x11#8
  | .updateColorFrame _ _ => 0x12#8
  | .updateAchromaticFrame _ => 0x13#8
  | .updateChromaticFrame _ => 0x14#8
  | .displayFrame => 0x18#8
  | .updateAndDisplayFrame _ => 0x19#8
  | .clearFrame => 0x1A#8
  | .setBackgroundColor _ => 0x20#8
  | .getBackgroundColor => 0x21#8
  | .getWidth => 0x22#8
  | .getHeight => 0x23#8
  | .cmdDriverOutputControl _ _ _ _ => 0x01#8
  | .cmdDeepSleepMode _ => 0x10#8
  | .cmdDataEntryMode _ _ => 0x11#8
  | .cmdSwReset => 0x12#8
  | .cmdTemperatureSensor => 0x18#8
  | .cmdMasterActivation => 0x20#8
  | .cmdDisplayUpdateControl1 => 0x21#8
  | .cmdDisplayUpdateControl2 _ => 0x22#8
  | .cmdWriteRamBw _ => 0x24#8
  | .cmdWriteRamRed _ => 0x26#8
  | .cmdWriteLut _ => 0x32#8
  | .cmdBorderWaveform _ => 0x3C#8
  | .cmdSetRamXWindow _ _ => 0x44#8
  | .cmdSetRamYWindow _ _ => 0x45#8
  | .cmdSetRamXCounter _ => 0x4E#8
  | .cmdSetRamYCounter _ => 0x4F#8

/-- The first byte of the encoding is the row's number, whatever the operands; a host request has its 16 descriptor bytes
before any stream, and a bus command is never an empty frame. -/
def Sys2Proof.Laws.Opcode.Statement (i : Instr) : Prop :=
  (encode i).head? = some (Sys2Proof.Laws.Opcode.number i) ∧ (if i.isBus then 1 else 16) ≤ (encode i).length

theorem Sys2Proof.Laws.Opcode.init : Statement .init := ⟨rfl, Nat.le_refl 16⟩
theorem Sys2Proof.Laws.Opcode.sleep : Statement .sleep := ⟨rfl, Nat.le_refl 16⟩
theorem Sys2Proof.Laws.Opcode.setLut (mode : RefreshMode) : Statement (.setLut mode) := ⟨rfl, Nat.le_refl 16⟩
theorem Sys2Proof.Laws.Opcode.waitIdle : Statement .waitIdle := ⟨rfl, Nat.le_refl 16⟩
theorem Sys2Proof.Laws.Opcode.updateFrame (a : List Byte) : Statement (.updateFrame a) :=
  ⟨rfl, Nat.le_add_left 16 a.length⟩
theorem Sys2Proof.Laws.Opcode.updatePartialFrame (x y w h : Half) (a : List Byte) : Statement (.updatePartialFrame x y w h a) :=
  ⟨rfl, Nat.le_add_left 16 a.length⟩
theorem Sys2Proof.Laws.Opcode.updateColorFrame (a b : List Byte) : Statement (.updateColorFrame a b) :=
  ⟨rfl, Nat.le_add_left 16 (a ++ b).length⟩
theorem Sys2Proof.Laws.Opcode.updateAchromaticFrame (a : List Byte) : Statement (.updateAchromaticFrame a) :=
  ⟨rfl, Nat.le_add_left 16 a.length⟩
theorem Sys2Proof.Laws.Opcode.updateChromaticFrame (a : List Byte) : Statement (.updateChromaticFrame a) :=
  ⟨rfl, Nat.le_add_left 16 a.length⟩
theorem Sys2Proof.Laws.Opcode.displayFrame : Statement .displayFrame := ⟨rfl, Nat.le_refl 16⟩
theorem Sys2Proof.Laws.Opcode.updateAndDisplayFrame (a : List Byte) : Statement (.updateAndDisplayFrame a) :=
  ⟨rfl, Nat.le_add_left 16 a.length⟩
theorem Sys2Proof.Laws.Opcode.clearFrame : Statement .clearFrame := ⟨rfl, Nat.le_refl 16⟩
theorem Sys2Proof.Laws.Opcode.setBackgroundColor (c : Byte) : Statement (.setBackgroundColor c) := ⟨rfl, Nat.le_refl 16⟩
theorem Sys2Proof.Laws.Opcode.getBackgroundColor : Statement .getBackgroundColor := ⟨rfl, Nat.le_refl 16⟩
theorem Sys2Proof.Laws.Opcode.getWidth : Statement .getWidth := ⟨rfl, Nat.le_refl 16⟩
theorem Sys2Proof.Laws.Opcode.getHeight : Statement .getHeight := ⟨rfl, Nat.le_refl 16⟩
theorem Sys2Proof.Laws.Opcode.cmdDriverOutputControl (n : Half) (linear firstG0 increasing : Bool) : Statement (.cmdDriverOutputControl n linear firstG0 increasing) :=
  ⟨rfl, Nat.succ_le_succ (Nat.zero_le _)⟩
theorem Sys2Proof.Laws.Opcode.cmdDeepSleepMode (c : Byte) : Statement (.cmdDeepSleepMode c) :=
  ⟨rfl, Nat.succ_le_succ (Nat.zero_le _)⟩
theorem Sys2Proof.Laws.Opcode.cmdDataEntryMode (m : BitVec 2) (yMajor : Bool) : Statement (.cmdDataEntryMode m yMajor) :=
  ⟨rfl, Nat.succ_le_succ (Nat.zero_le _)⟩
theorem Sys2Proof.Laws.Opcode.cmdSwReset : Statement .cmdSwReset := ⟨rfl, Nat.succ_le_succ (Nat.zero_le _)⟩
theorem Sys2Proof.Laws.Opcode.cmdTemperatureSensor : Statement .cmdTemperatureSensor :=
  ⟨rfl, Nat.succ_le_succ (Nat.zero_le _)⟩
theorem Sys2Proof.Laws.Opcode.cmdMasterActivation : Statement .cmdMasterActivation :=
  ⟨rfl, Nat.succ_le_succ (Nat.zero_le _)⟩
theorem Sys2Proof.Laws.Opcode.cmdDisplayUpdateControl1 : Statement .cmdDisplayUpdateControl1 :=
  ⟨rfl, Nat.succ_le_succ (Nat.zero_le _)⟩
theorem Sys2Proof.Laws.Opcode.cmdDisplayUpdateControl2 (f : Byte) : Statement (.cmdDisplayUpdateControl2 f) :=
  ⟨rfl, Nat.succ_le_succ (Nat.zero_le _)⟩
theorem Sys2Proof.Laws.Opcode.cmdWriteRamBw (s : List Byte) : Statement (.cmdWriteRamBw s) :=
  ⟨rfl, Nat.succ_le_succ (Nat.zero_le _)⟩
theorem Sys2Proof.Laws.Opcode.cmdWriteRamRed (s : List Byte) : Statement (.cmdWriteRamRed s) :=
  ⟨rfl, Nat.succ_le_succ (Nat.zero_le _)⟩
theorem Sys2Proof.Laws.Opcode.cmdWriteLut (s : List Byte) : Statement (.cmdWriteLut s) :=
  ⟨rfl, Nat.succ_le_succ (Nat.zero_le _)⟩
theorem Sys2Proof.Laws.Opcode.cmdBorderWaveform (b : Byte) : Statement (.cmdBorderWaveform b) :=
  ⟨rfl, Nat.succ_le_succ (Nat.zero_le _)⟩
theorem Sys2Proof.Laws.Opcode.cmdSetRamXWindow (xs xe : Byte) : Statement (.cmdSetRamXWindow xs xe) :=
  ⟨rfl, Nat.succ_le_succ (Nat.zero_le _)⟩
theorem Sys2Proof.Laws.Opcode.cmdSetRamYWindow (ys ye : Half) : Statement (.cmdSetRamYWindow ys ye) :=
  ⟨rfl, Nat.succ_le_succ (Nat.zero_le _)⟩
theorem Sys2Proof.Laws.Opcode.cmdSetRamXCounter (x : Byte) : Statement (.cmdSetRamXCounter x) :=
  ⟨rfl, Nat.succ_le_succ (Nat.zero_le _)⟩
theorem Sys2Proof.Laws.Opcode.cmdSetRamYCounter (y : Half) : Statement (.cmdSetRamYCounter y) :=
  ⟨rfl, Nat.succ_le_succ (Nat.zero_le _)⟩
end

