-- ==== Sys2Proof/Laws/Port.lean ====
section
/-! SUPPORT. The latched request: which operation it is, what a descriptor puts into it, and what REQ holds after the step
that accepted it. -/

namespace Sys2Proof.Machine

/-! Latching a descriptor writes REQ alone. -/

theorem State.latchDescriptor_eq (s : State) (bytes : List Byte) :
    s.latchDescriptor bytes = { s with req := (s.latchDescriptor bytes).req } := by
  unfold State.latchDescriptor
  split <;> rfl

theorem State.latchDescriptor_req {bytes rest : List Byte} {d : Descriptor} (s : State)
    (h : readDescriptor bytes = some (d, rest)) :
    (s.latchDescriptor bytes).req = s.req.map (·.withDescriptor d) := by
  simp only [State.latchDescriptor, h]

@[simp] theorem State.latchDescriptor_rev (s : State) (bytes : List Byte) :
    (s.latchDescriptor bytes).rev = s.rev := by
  rw [State.latchDescriptor_eq]
@[simp] theorem State.latchDescriptor_params (s : State) (bytes : List Byte) :
    (s.latchDescriptor bytes).params = s.params := by
  rw [State.latchDescriptor_eq]
@[simp] theorem State.latchDescriptor_pstate (s : State) (bytes : List Byte) :
    (s.latchDescriptor bytes).pstate = s.pstate := by
  rw [State.latchDescriptor_eq]
@[simp] theorem State.latchDescriptor_refresh (s : State) (bytes : List Byte) :
    (s.latchDescriptor bytes).refresh = s.refresh := by
  rw [State.latchDescriptor_eq]
@[simp] theorem State.latchDescriptor_bg (s : State) (bytes : List Byte) :
    (s.latchDescriptor bytes).bg = s.bg := by
  rw [State.latchDescriptor_eq]
@[simp] theorem State.latchDescriptor_duc2Acc (s : State) (bytes : List Byte) :
    (s.latchDescriptor bytes).duc2Acc = s.duc2Acc := by
  rw [State.latchDescriptor_eq]
@[simp] theorem State.latchDescriptor_shadow (s : State) (bytes : List Byte) :
    (s.latchDescriptor bytes).shadow = s.shadow := by
  rw [State.latchDescriptor_eq]
@[simp] theorem State.latchDescriptor_code (s : State) (bytes : List Byte) :
    (s.latchDescriptor bytes).code = s.code := by
  rw [State.latchDescriptor_eq]
@[simp] theorem State.latchDescriptor_active (s : State) (bytes : List Byte) :
    (s.latchDescriptor bytes).active = s.active := by
  rw [State.latchDescriptor_eq]
@[simp] theorem State.latchDescriptor_errInfo (s : State) (bytes : List Byte) :
    (s.latchDescriptor bytes).errInfo = s.errInfo := by
  rw [State.latchDescriptor_eq]
@[simp] theorem State.latchDescriptor_result (s : State) (bytes : List Byte) :
    (s.latchDescriptor bytes).result = s.result := by
  rw [State.latchDescriptor_eq]
@[simp] theorem State.latchDescriptor_pins (s : State) (bytes : List Byte) :
    (s.latchDescriptor bytes).pins = s.pins := by
  rw [State.latchDescriptor_eq]
@[simp] theorem State.latchDescriptor_seq (s : State) (bytes : List Byte) :
    (s.latchDescriptor bytes).seq = s.seq := by
  rw [State.latchDescriptor_eq]
@[simp] theorem State.latchDescriptor_polls (s : State) (bytes : List Byte) :
    (s.latchDescriptor bytes).polls = s.polls := by
  rw [State.latchDescriptor_eq]
@[simp] theorem State.latchDescriptor_pend (s : State) (bytes : List Byte) :
    (s.latchDescriptor bytes).pend = s.pend := by
  rw [State.latchDescriptor_eq]
@[simp] theorem State.latchDescriptor_env (s : State) (bytes : List Byte) :
    (s.latchDescriptor bytes).env = s.env := by
  rw [State.latchDescriptor_eq]
@[simp] theorem State.latchDescriptor_host (s : State) (bytes : List Byte) :
    (s.latchDescriptor bytes).host = s.host := by
  rw [State.latchDescriptor_eq]
@[simp] theorem State.latchDescriptor_trace (s : State) (bytes : List Byte) :
    (s.latchDescriptor bytes).trace = s.trace := by
  rw [State.latchDescriptor_eq]

theorem requestOf_operation {i : Instr} (h : i.isBus = false) : (requestOf i).operation = some i := by
  cases i with
  | setLut mode => cases mode <;> rfl
  | _ => first | rfl | simp [Instr.isBus] at h

/-- Only host operations are latched. -/
theorem operation_isBus {r : Request} {i : Instr} (h : r.operation = some i) : i.isBus = false := by
  unfold Request.operation at h
  split at h <;> first | (cases h; rfl) | cases h

/-- INIT and SLEEP are told by OP. -/
theorem isPowerRequest_of_operation {r : Request} {i : Instr} (h : r.operation = some i) :
    isPowerRequest (some r) = true ↔ i = .init ∨ i = .sleep := by
  have hop : ∀ v : Byte, r.op = v ↔ r.op.toNat = v.toNat := fun v => ⟨fun e => by rw [e], BitVec.eq_of_toNat_eq⟩
  simp only [isPowerRequest, Option.map_some, Bool.or_eq_true, beq_iff_eq, Option.some.injEq, hop]
  unfold Request.operation at h
  split at h <;> first | (cases h; simp_all) | cases h

theorem isPowerRequest_requestOf {i : Instr} (h : i.isBus = false) :
    isPowerRequest (some (requestOf i)) = true ↔ i = .init ∨ i = .sleep :=
  isPowerRequest_of_operation (requestOf_operation h)

/-- The descriptor's fields leave the operation as decoding read it. -/
theorem withDescriptor_operation {d : Descriptor} {stream rest : List Byte} {i : Instr}
    (h : decodeDescriptor d stream = .ok (i, rest)) : ((requestOf i).withDescriptor d).operation = some i := by
  unfold decodeDescriptor at h
  split at h
  all_goals first
    | (cases h; rfl)
    | (simp only [withStreamA] at h; split at h <;> cases h; rfl)
    | (simp only [withStreamsAB] at h; split at h <;> (try split at h) <;> cases h; rfl)
    | cases h

/-- An encoded request's descriptor puts into REQ what the operation itself did. -/
theorem latchDescriptor_encode {i : Instr} (hb : i.isBus = false) {t : State}
    (ht : t.req = none ∨ t.req = some (requestOf i)) : t.latchDescriptor (encode i) = t := by
  have key : ∀ d rest, readDescriptor (encode i) = some (d, rest) → (requestOf i).withDescriptor d = requestOf i := by
    intro d rest hd
    cases i with
    | updatePartialFrame x y w h a =>
      rw [show encode (.updatePartialFrame x y w h a) = descriptorBytes 0x11#8 0#8 x y w h a.length 0 ++ a from rfl,
        readDescriptor_descriptorBytes] at hd
      cases hd
      simp [Request.withDescriptor, requestOf, requestOf.plain]
    | _ =>
      first
        | (simp [Instr.isBus] at hb; done)
        | (cases hd; rfl)
  unfold State.latchDescriptor
  split
  · rfl
  · rename_i d rest hd
    obtain h₀ | h₀ := ht
    · cases t; simp_all
    · have := key _ _ hd
      cases t
      simp_all

/-- A sequence ends with its completion. -/
theorem sequence_finishes {i : Instr} (hb : i.isBus = false) (hr : isRegisterOp i = false) (s : State) :
    ∃ a, sequenceOf i s = a ++ [.finish] := by
  rw [← List.getLast?_eq_some_iff]
  cases i with
  | setLut m => simp only [sequenceOf]; split <;> simp [setLutBody]
  | _ => first | (simp [Instr.isBus] at hb; done) | (simp [isRegisterOp] at hr; done) | simp [sequenceOf, initBody, sleepBody]

/-- What REQ holds after the step that accepted an operation: its request while ACTIVE = 1, and nothing afterwards. -/
theorem exec_req {i : Instr} (hb : i.isBus = false) {s t : State} (ha : s.active = false) (h : exec i s = .next t) :
    (t.active = false ∧ t.req = none) ∨ (t.active = true ∧ t.req = some (requestOf i)) := by
  have start : ∀ f q, startOperation i f q s = .next t → (∃ a, q = a ++ [.finish]) →
      (t.active = false ∧ t.req = none) ∨ (t.active = true ∧ t.req = some (requestOf i)) := by
    rintro f q hs ⟨a, rfl⟩
    simp only [startOperation, ha, Bool.false_eq_true, if_false] at hs
    cases f with
    | some c => cases hs; exact .inl ⟨rfl, rfl⟩
    | none =>
      cases hs
      have he := run_ends (a ++ [.finish]) (s.accept i)
      rw [run_append] at he ⊢
      cases hr : run a { s.accept i with seq := [.finish] ++ (s.accept i).seq } with
      | go u => exact .inl ⟨rfl, rfl⟩
      | stop u =>
        rw [hr] at he
        obtain hw | hd := he
        · exact .inr ⟨hw.active, hw.req⟩
        · exact .inl ⟨hd.1, hd.2.1⟩
  cases hr : isRegisterOp i with
  | true =>
    obtain ⟨write, hw, hk⟩ := exec_register hr s
    rw [hw, registerOperation, ha] at h
    cases h
    exact .inl ⟨rfl, rfl⟩
  | false =>
    by_cases hl : ∀ m, i = .setLut m → lutPayload s.params m ≠ []
    · rw [exec_operation hb hr hl] at h
      exact start _ _ h (sequence_finishes hb hr s)
    · simp only [not_forall, not_not] at hl
      obtain ⟨m, rfl, hm⟩ := hl
      simp only [exec, execSetLut] at h
      split at h
      · split at h
        · cases h
        · exact start _ _ h ⟨writeLut (lutPayload s.params m) ++ [.setRefresh m], by simp [setLutBody]⟩
      · exact start _ _ h ⟨[], rfl⟩

end Sys2Proof.Machine
end

