-- ==== Sys2Proof/Laws/Replay.lean ====
section
/-! SUPPORT. A sequence whose answers are all Ok and idle, read off as one change of the state: the trace grows by the
sequence's transactions, and each register is what its last write left. -/

namespace Sys2Proof.Machine

/-- PSTATE after a sequence. -/
def pstateAfter : List Item → PowerState → PowerState
  | [], p => p
  | .setPower q :: rest, _ => pstateAfter rest q
  | _ :: rest, p => pstateAfter rest p

/-- REFRESH after a sequence. -/
def refreshAfter : List Item → RefreshMode → RefreshMode
  | [], m => m
  | .setRefresh k :: rest, _ => refreshAfter rest k
  | _ :: rest, m => refreshAfter rest m

/-- POLLS after a sequence without a busy sample. -/
def pollsAfter : List Item → Option Nat → Option Nat
  | [], n => n
  | .startPoll :: rest, _ => pollsAfter rest (some 0)
  | _ :: rest, n => pollsAfter rest n

/-- The state after a sequence whose answers were all Ok and idle; `more` of the transport's script is left. -/
def replay (items : List Item) (s : State) (more : List Move) : State :=
  { s with
    trace := s.trace ++ (transactionsOf items).map idleEvent
    pins := pinsAfter items s.pins
    shadow := shadowAfter items s.shadow
    duc2Acc := duc2After items s.duc2Acc
    pstate := pstateAfter items s.pstate
    refresh := refreshAfter items s.refresh
    polls := pollsAfter items s.polls
    env := { s.env with script := more } }

/-- How many of the transport's moves a sequence takes when every sample is idle. -/
def askedCount (items : List Item) : Nat := ((transactionsOf items).filter Transaction.isAsked).length

theorem State.hearsIdle_succ {s : State} {n : Nat} {more : List Move} (h : s.hearsIdle (n + 1) more) :
    ∃ l mid, s.env.script = .ok l :: mid ∧ isBusy s.rev l = false
      ∧ ∀ s' : State, s'.env.script = mid → s'.rev = s.rev → s'.hearsIdle n more := by
  obtain ⟨ms, h1, h2, h3⟩ := h
  cases ms with
  | nil => simp at h2
  | cons m ms =>
    obtain ⟨l, hl, hb⟩ := h3 m (by simp)
    refine ⟨l, ms ++ more, by simp [h1, hl], hb, fun s' hs' hr => ⟨ms, hs', by simpa using h2, ?_⟩⟩
    rw [hr]
    exact fun m hm => h3 m (by simp [hm])

theorem perform_issue_idle {t : Transaction} (ht : t.isAsked = true) (rest : List Item) {s : State} {l : Level}
    {mid : List Move} (h : s.env.script = .ok l :: mid) (hb : isBusy s.rev l = false) (hp : s.pend = none) :
    perform (.issue t) rest s = .go (replay [.issue t] s mid) := by
  obtain rfl : l = .low := by
    cases l with
    | low => rfl
    | high => exact absurd hb (by simp [isBusy_iff s.rev .high])
  simp only [perform]
  rw [settle_of_script ht rest h]
  cases t <;> simp_all [Transaction.isAsked, moved, answeredOk, sampled, State.record, State.setPin, replay,
    transactionsOf, idleEvent, pinsAfter, shadowAfter, duc2After, pstateAfter, refreshAfter, pollsAfter]

/-- After every delay of a sequence a transaction is still to be answered, so that a script of the sequence's answers leaves
no engine reset to fall into the delay. -/
def delaysInside : List Item → Prop
  | [] => True
  | .issue (.delay _) :: rest => 0 < askedCount rest ∧ delaysInside rest
  | _ :: rest => delaysInside rest

/-- A sequence whose answers are all Ok and idle goes on to what follows it. -/
theorem run_idle (items rest : List Item) (hf : .finish ∉ items) (hd : delaysInside items) (s : State) (more : List Move)
    (h : s.hearsIdle (askedCount items) more) (hp : s.pend = none) :
    run (items ++ rest) s = run rest (replay items s more) := by
  induction items generalizing s with
  | nil =>
    have hm := State.hearsOk_zero (State.hearsOk_of_idle h)
    subst hm
    simp [replay, transactionsOf, pinsAfter, shadowAfter, duc2After, pstateAfter, refreshAfter, pollsAfter]
  | cons item items ih =>
    simp only [List.mem_cons, not_or] at hf
    have plain : ∀ s' : State, perform item (items ++ rest) s = .go s' → s'.env = s.env → s'.rev = s.rev →
        s'.pend = none → askedCount items = askedCount (item :: items) →
        replay items s' more = replay (item :: items) s more →
        run (item :: items ++ rest) s = run rest (replay (item :: items) s more) := by
      intro s' h₁ h₂ h₃ h₄ h₅ h₆
      have hd' : delaysInside items := by
        cases item with
        | issue t => cases t <;> first | exact hd | exact hd.2
        | _ => exact hd
      rw [List.cons_append, run_cons_go h₁, ih hf.2 hd' s' ?_ h₄, h₆]
      obtain ⟨ms, a, b, c⟩ := h
      exact ⟨ms, by rw [h₂, a], by rw [h₅, b], by rw [h₃]; exact c⟩
    cases item with
    | startPoll => exact plain _ rfl rfl rfl hp rfl rfl
    | latch w => exact plain _ rfl rfl rfl hp rfl rfl
    | compose v => exact plain _ rfl rfl rfl hp rfl rfl
    | setPower p => exact plain _ rfl rfl rfl hp rfl rfl
    | setRefresh m => exact plain _ rfl rfl rfl hp rfl rfl
    | finish => exact absurd rfl hf.1
    | issue t =>
      cases ht : t.isAsked with
      | false =>
        cases t with
        | delay us =>
          obtain ⟨l, mid, h₁, -⟩ := State.hearsIdle_succ (n := askedCount items - 1)
            (by rwa [show askedCount items - 1 + 1 = askedCount (.issue (.delay us) :: items) from
              Nat.sub_add_cancel hd.1])
          refine plain (s.record (.delay us) .ok) (perform_delay us _ (Env.next_ne_reset_of_script h₁ nofun)) rfl rfl rfl
            rfl ?_
          simp [replay, State.record, transactionsOf, idleEvent, pinsAfter, shadowAfter, duc2After, pstateAfter,
            refreshAfter, pollsAfter, hp]
        | _ => simp [Transaction.isAsked] at ht
      | true =>
        obtain ⟨l, mid, h₁, hb, h₂⟩ := State.hearsIdle_succ (n := askedCount items)
          (by simpa [askedCount, transactionsOf, ht] using h)
        rw [List.cons_append, run_cons_go (perform_issue_idle ht _ h₁ hb hp), ih hf.2
          (by cases t <;> first | exact hd | simp [Transaction.isAsked] at ht) (replay [.issue t] s mid) (h₂ _ rfl rfl) hp]
        cases t <;> simp [replay, transactionsOf, pinsAfter, shadowAfter, duc2After, pstateAfter, refreshAfter,
          pollsAfter]

/-- A whole operation whose answers are all Ok and idle completes. -/
theorem startOperation_idle {i : Instr} {items : List Item} {s : State} {more : List Move} (ha : s.active = false)
    (hf : .finish ∉ items) (hd : delaysInside items) (h : s.hearsIdle (askedCount items) more) :
    startOperation i none (items ++ [.finish]) s = .next (replay items (s.accept i) more).complete := by
  have hs : (s.accept i).hearsIdle (askedCount items) more := h
  simp only [startOperation, ha, Bool.false_eq_true, if_false]
  rw [run_idle items [.finish] hf hd (s.accept i) more hs rfl, run_finish]
  rfl

/-! What each piece of a sequence adds. -/

@[simp] theorem transactionsOf_nil : transactionsOf [] = [] := rfl
@[simp] theorem transactionsOf_issue (t : Transaction) (a : List Item) :
    transactionsOf (.issue t :: a) = t :: transactionsOf a := rfl
@[simp] theorem transactionsOf_startPoll (a : List Item) : transactionsOf (.startPoll :: a) = transactionsOf a := rfl
@[simp] theorem transactionsOf_latch (w : ShadowWrite) (a : List Item) :
    transactionsOf (.latch w :: a) = transactionsOf a := rfl
@[simp] theorem transactionsOf_compose (v : Byte) (a : List Item) :
    transactionsOf (.compose v :: a) = transactionsOf a := rfl
@[simp] theorem transactionsOf_setPower (p : PowerState) (a : List Item) :
    transactionsOf (.setPower p :: a) = transactionsOf a := rfl
@[simp] theorem transactionsOf_setRefresh (m : RefreshMode) (a : List Item) :
    transactionsOf (.setRefresh m :: a) = transactionsOf a := rfl
@[simp] theorem transactionsOf_finish (a : List Item) : transactionsOf (.finish :: a) = transactionsOf a := rfl

@[simp] theorem transactionsOf_append (a b : List Item) :
    transactionsOf (a ++ b) = transactionsOf a ++ transactionsOf b := by
  induction a with
  | nil => rfl
  | cons x a ih => cases x <;> simp [ih]

@[simp] theorem transactionsOf_bytes (bytes : List Byte) :
    transactionsOf (bytes.map fun b => Item.issue (.byteOut b)) = bytes.map .byteOut := by
  induction bytes with
  | nil => rfl
  | cons b bytes ih => simpa using ih

@[simp] theorem pinsAfter_append (a b : List Item) (p : Pins) : pinsAfter (a ++ b) p = pinsAfter b (pinsAfter a p) := by
  induction a generalizing p with
  | nil => rfl
  | cons x a ih =>
    cases x with
    | issue t => cases t <;> simp [pinsAfter, ih]
    | _ => simp [pinsAfter, ih]

@[simp] theorem pstateAfter_append (a b : List Item) (p : PowerState) :
    pstateAfter (a ++ b) p = pstateAfter b (pstateAfter a p) := by
  induction a generalizing p with
  | nil => rfl
  | cons x a ih => cases x <;> simp [pstateAfter, ih]

@[simp] theorem refreshAfter_append (a b : List Item) (m : RefreshMode) :
    refreshAfter (a ++ b) m = refreshAfter b (refreshAfter a m) := by
  induction a generalizing m with
  | nil => rfl
  | cons x a ih => cases x <;> simp [refreshAfter, ih]

/-- A sequence of transactions and polls writes no register but the pins. -/
def issuesOnly (items : List Item) : Prop := ∀ item ∈ items, item = .startPoll ∨ ∃ t, item = .issue t

theorem issuesOnly.keeps {items : List Item} (h : issuesOnly items) :
    (∀ sh, shadowAfter items sh = sh) ∧ (∀ v, duc2After items v = v) ∧ (∀ p, pstateAfter items p = p)
      ∧ (∀ m, refreshAfter items m = m) ∧ .finish ∉ items := by
  induction items with
  | nil => exact ⟨fun _ => rfl, fun _ => rfl, fun _ => rfl, fun _ => rfl, by simp⟩
  | cons x items ih =>
    obtain ⟨h₁, h₂, h₃, h₄, h₅⟩ := ih fun i hi => h i (by simp [hi])
    obtain rfl | ⟨t, rfl⟩ := h x (by simp)
    · exact ⟨h₁, h₂, h₃, h₄, by simpa using h₅⟩
    · exact ⟨h₁, h₂, h₃, h₄, by simpa using h₅⟩

theorem frame_issuesOnly (dcl : Level) (bytes : List Byte) : issuesOnly (frame dcl bytes) := by
  intro item h
  simp only [frame, List.mem_append, List.mem_cons, List.mem_map, List.not_mem_nil, or_false] at h
  obtain (h | ⟨b, -, h⟩) | h := h
  · obtain h | h := h <;> exact .inr ⟨_, h⟩
  · exact .inr ⟨_, h.symm⟩
  · exact .inr ⟨_, h⟩

@[simp] theorem shadowAfter_frame (dcl : Level) (bytes : List Byte) (sh : Shadow) :
    shadowAfter (frame dcl bytes) sh = sh := (frame_issuesOnly dcl bytes).keeps.1 sh
@[simp] theorem duc2After_frame (dcl : Level) (bytes : List Byte) (v : Byte) :
    duc2After (frame dcl bytes) v = v := (frame_issuesOnly dcl bytes).keeps.2.1 v
@[simp] theorem pstateAfter_frame (dcl : Level) (bytes : List Byte) (p : PowerState) :
    pstateAfter (frame dcl bytes) p = p := (frame_issuesOnly dcl bytes).keeps.2.2.1 p
@[simp] theorem refreshAfter_frame (dcl : Level) (bytes : List Byte) (m : RefreshMode) :
    refreshAfter (frame dcl bytes) m = m := (frame_issuesOnly dcl bytes).keeps.2.2.2.1 m
@[simp] theorem finish_notMem_frame (dcl : Level) (bytes : List Byte) : .finish ∉ frame dcl bytes :=
  (frame_issuesOnly dcl bytes).keeps.2.2.2.2

@[simp] theorem pinsAfter_bytes (bytes : List Byte) (p : Pins) :
    pinsAfter (bytes.map fun b => Item.issue (.byteOut b)) p = p := by
  induction bytes with
  | nil => rfl
  | cons b bytes ih => simpa [pinsAfter] using ih

@[simp] theorem pinsAfter_frame (dcl : Level) (bytes : List Byte) (p : Pins) :
    pinsAfter (frame dcl bytes) p = { p with csN := .high, dc := dcl } := by
  simp [frame, pinsAfter, Pins.set]

@[simp] theorem transactionsOf_frame (dcl : Level) (bytes : List Byte) :
    transactionsOf (frame dcl bytes) =
      [.pinSet .csN .low, .pinSet .dc dcl] ++ bytes.map .byteOut ++ [.pinSet .csN .high] := by
  simp [frame]

/-- A sequence without delays. -/
theorem delaysInside_of_none {items : List Item} (h : ∀ us, .issue (.delay us) ∉ items) : delaysInside items := by
  induction items with
  | nil => trivial
  | cons x items ih =>
    have hi := ih fun us hu => h us (by simp [hu])
    cases x with
    | issue t =>
      cases t with
      | delay us => exact absurd (by simp) (h us)
      | _ => exact hi
    | _ => exact hi

@[simp] theorem delay_notMem_frame (us : Nat) (dcl : Level) (bytes : List Byte) : .issue (.delay us) ∉ frame dcl bytes := by
  simp [frame]

@[simp] theorem askedCount_nil : askedCount [] = 0 := rfl
@[simp] theorem askedCount_pinSet (p : Pin) (l : Level) (a : List Item) :
    askedCount (.issue (.pinSet p l) :: a) = askedCount a + 1 := rfl
@[simp] theorem askedCount_byteOut (b : Byte) (a : List Item) :
    askedCount (.issue (.byteOut b) :: a) = askedCount a + 1 := rfl
@[simp] theorem askedCount_pinGet (a : List Item) : askedCount (.issue .pinGet :: a) = askedCount a + 1 := rfl
@[simp] theorem askedCount_delay (us : Nat) (a : List Item) : askedCount (.issue (.delay us) :: a) = askedCount a := rfl
@[simp] theorem askedCount_startPoll (a : List Item) : askedCount (.startPoll :: a) = askedCount a := rfl
@[simp] theorem askedCount_latch (w : ShadowWrite) (a : List Item) : askedCount (.latch w :: a) = askedCount a := rfl
@[simp] theorem askedCount_compose (v : Byte) (a : List Item) : askedCount (.compose v :: a) = askedCount a := rfl
@[simp] theorem askedCount_setPower (p : PowerState) (a : List Item) :
    askedCount (.setPower p :: a) = askedCount a := rfl
@[simp] theorem askedCount_setRefresh (m : RefreshMode) (a : List Item) :
    askedCount (.setRefresh m :: a) = askedCount a := rfl
@[simp] theorem askedCount_append (a b : List Item) : askedCount (a ++ b) = askedCount a + askedCount b := by
  simp [askedCount]
@[simp] theorem askedCount_bytes (bytes : List Byte) :
    askedCount (bytes.map fun b => Item.issue (.byteOut b)) = bytes.length := by
  induction bytes with
  | nil => rfl
  | cons b bytes ih => simp [ih]
@[simp] theorem askedCount_frame (dcl : Level) (bytes : List Byte) :
    askedCount (frame dcl bytes) = bytes.length + 3 := by
  simp [frame]

/-! A RAM write has no delay and does not complete the operation. -/

@[simp] theorem delay_notMem_ramWriteA (us : Nat) (r : Rect) (bytes : List Byte) :
    .issue (.delay us) ∉ ramWriteA r bytes := by
  simp [ramWriteA, openWindow, setRamArea, setRamAddressCounters, setRamXWindow, setRamYWindow, setRamXCounter,
    setRamYCounter, writeRamBw, sendCommandWithData, sendCommand, sendData, waitUntilIdle]
@[simp] theorem delay_notMem_ramWriteC (us : Nat) (r : Rect) (bytes : List Byte) :
    .issue (.delay us) ∉ ramWriteC r bytes := by
  simp [ramWriteC, openWindow, setRamArea, setRamAddressCounters, setRamXWindow, setRamYWindow, setRamXCounter,
    setRamYCounter, writeRamRed, sendCommandWithData, sendCommand, sendData, waitUntilIdle]
@[simp] theorem finish_notMem_ramWriteA (r : Rect) (bytes : List Byte) : .finish ∉ ramWriteA r bytes := by
  simp [ramWriteA, openWindow, setRamArea, setRamAddressCounters, setRamXWindow, setRamYWindow, setRamXCounter,
    setRamYCounter, writeRamBw, sendCommandWithData, sendCommand, sendData, waitUntilIdle]
@[simp] theorem finish_notMem_ramWriteC (r : Rect) (bytes : List Byte) : .finish ∉ ramWriteC r bytes := by
  simp [ramWriteC, openWindow, setRamArea, setRamAddressCounters, setRamXWindow, setRamYWindow, setRamXCounter,
    setRamYCounter, writeRamRed, sendCommandWithData, sendCommand, sendData, waitUntilIdle]

/-- A RAM write leaves its rectangle in the shadow registers. -/
@[simp] theorem shadowAfter_ramWriteA (r : Rect) (bytes : List Byte) (sh : Shadow) :
    shadowAfter (ramWriteA r bytes) sh = shadowOf r := by
  simp [ramWriteA, openWindow, setRamArea, setRamAddressCounters, setRamXWindow, setRamYWindow, setRamXCounter,
    setRamYCounter, writeRamBw, sendCommandWithData, sendCommand, sendData, waitUntilIdle, shadowAfter, Shadow.put, shadowOf]
@[simp] theorem shadowAfter_ramWriteC (r : Rect) (bytes : List Byte) (sh : Shadow) :
    shadowAfter (ramWriteC r bytes) sh = shadowOf r := by
  simp [ramWriteC, openWindow, setRamArea, setRamAddressCounters, setRamXWindow, setRamYWindow, setRamXCounter,
    setRamYCounter, writeRamRed, sendCommandWithData, sendCommand, sendData, waitUntilIdle, shadowAfter, Shadow.put, shadowOf]

end Sys2Proof.Machine
end

