-- ==== Sys2Proof/Tests/Slice0.lean ====
section
/-! SUPPORT. Tests of the model on small states, and for every statement with hypotheses a witness that meets them together.
Every expected value is taken from the spec's tables and vectors (spec/95_test_vectors.md, spec/30_encoding.md), as the
comments say; none is the model's own answer pasted back. -/

open Sys2Proof Sys2Proof.Machine

namespace Sys2Proof.Tests

/-! ## Small states -/

/-- Parameters with numbers in them: the spec's defaults, a LUT of four bytes, no deadline. -/
def params : Params where
  resetLowUs := 10
  resetHighUs := 20
  pollIntervalUs := 5
  busyPollLimit := none
  deepSleepCode := 0x01#8
  initBorder := 0x03#8
  lutLen := 4
  lutFull := [0xA0#8, 0xA1#8, 0xA2#8, 0xA3#8]
  lutPartial := [0xB0#8, 0xB1#8, 0xB2#8, 0xB3#8]
  bgReset := 0xFF#8
  bitEnableClock := 7
  bitEnableAnalog := 6
  bitLoadTemperature := 5
  bitLoadLut := 4
  bitTriggerDisplay := 2
  bitDisableAnalog := 1
  bitDisableClock := 0
  errInfoWidth := 8

/-- The same with a deadline of `n` samples. -/
def limited (n : Nat) : Params := { params with busyPollLimit := some n }

/-- An idle engine that will hear `script`. -/
def idle (rev : Rev) (pstate : PowerState) (script : List Move) : State :=
  { State.resetOf rev params with pstate := pstate, env := { script := script, loop := [] } }

/-- A V4 engine in the middle of WAIT_IDLE that will hear `script`. -/
def busyWith (script : List Move) : State :=
  { idle .v4 .ready script with active := true, req := some (requestOf .waitIdle) }

/-- `n` answers Ok, every sample of BUSY idle. -/
def oks (n : Nat) : List Move := List.replicate n (.ok .low)

/-- The outcome is a next state of which `p` holds. -/
def nextIs (o : Host.Outcome State Fault Refusal) (p : State → Bool) : Bool :=
  match o with
  | .next t => p t
  | .fault _ => false
  | .refused _ => false

/-- The outcome is a next state with this STATUS byte, this many events and this trace notation (R16). -/
def endsWith (o : Host.Outcome State Fault Refusal) (status : Byte) (trace : List Event) : Bool :=
  nextIs o fun t => statusByte t == status && t.trace == trace

/-! ## Well-formedness: each check refuses an ill-formed term -/

/-- A buffer stream of 65536 bytes has no LEN field (R90). -/
theorem test_bufferFits_refuses : bufferFits (List.replicate 65536 0#8) = false := by
  rw [bufferFits, List.length_replicate]
  decide
theorem test_bufferFits_accepts : bufferFits (List.replicate 65535 0#8) = true := by
  rw [bufferFits, List.length_replicate]
  decide

theorem test_illFormed_updateFrame : (Instr.updateFrame (List.replicate 65536 0#8)).wellFormed = false := test_bufferFits_refuses
theorem test_illFormed_updatePartialFrame :
    (Instr.updatePartialFrame 0#16 0#16 8#16 1#16 (List.replicate 65536 0#8)).wellFormed = false := test_bufferFits_refuses
theorem test_illFormed_updateColorFrame_A :
    (Instr.updateColorFrame (List.replicate 65536 0#8) []).wellFormed = false := by
  rw [Instr.wellFormed, test_bufferFits_refuses]
  rfl
theorem test_illFormed_updateColorFrame_B :
    (Instr.updateColorFrame [] (List.replicate 65536 0#8)).wellFormed = false := by
  rw [Instr.wellFormed, test_bufferFits_refuses]
  rfl
theorem test_illFormed_updateAchromaticFrame :
    (Instr.updateAchromaticFrame (List.replicate 65536 0#8)).wellFormed = false := test_bufferFits_refuses
theorem test_illFormed_updateChromaticFrame :
    (Instr.updateChromaticFrame (List.replicate 65536 0#8)).wellFormed = false := test_bufferFits_refuses
theorem test_illFormed_updateAndDisplayFrame :
    (Instr.updateAndDisplayFrame (List.replicate 65536 0#8)).wellFormed = false := test_bufferFits_refuses
/-- A data frame has at least one byte (R103, R132). -/
theorem test_illFormed_cmdWriteRamBw : (Instr.cmdWriteRamBw []).wellFormed = false := by decide
theorem test_illFormed_cmdWriteRamRed : (Instr.cmdWriteRamRed []).wellFormed = false := by decide
theorem test_illFormed_cmdWriteLut : (Instr.cmdWriteLut []).wellFormed = false := by decide
theorem test_wellFormed_cmdWriteLut : (Instr.cmdWriteLut [0#8]).wellFormed = true := by decide

/-! ## Decode: words written out from the encodings -/

/-- A descriptor with OP and IMM8 only (R90: byte 0 is OP, byte 1 is IMM8). -/
def word (op imm8 : Byte) : List Byte :=
  [op, imm8, 0#8, 0#8, 0#8, 0#8, 0#8, 0#8, 0#8, 0#8, 0#8, 0#8, 0#8, 0#8, 0#8, 0#8]

/-- A descriptor whose LEN_A is 2 and LEN_B is 1 (R90: bytes 12 and 14), with three stream bytes. -/
def wordAB (op : Byte) : List Byte :=
  [op, 0#8, 0#8, 0#8, 0#8, 0#8, 0#8, 0#8, 0#8, 0#8, 0#8, 0#8, 0x02#8, 0x00#8, 0x01#8, 0x00#8, 0xA1#8, 0xA2#8, 0xB1#8]

def decodesTo (bytes : List Byte) (i : Instr) (rest : List Byte) : Bool :=
  match decodeRequest bytes with
  | .ok (j, r) => decide (j = i) && decide (r = rest)
  | .error _ => false

def commandIs (bytes : List Byte) (c : Instr) : Bool :=
  match decodeCommand bytes with
  | .ok d => decide (d = c)
  | .error _ => false

/-- R93's opcode numbers. -/
theorem test_decode_init : decodesTo (word 0x01#8 0#8) .init [] = true := by decide
theorem test_decode_sleep : decodesTo (word 0x02#8 0#8) .sleep [] = true := by decide
/-- 95_test_vectors.md L2.5 item 13: IMM8 = 0xFE is Full. -/
theorem test_decode_setLut_reads_bit0 : decodesTo (word 0x03#8 0xFE#8) (.setLut .fullRefresh) [] = true := by decide
theorem test_decode_setLut_partial : decodesTo (word 0x03#8 0x01#8) (.setLut .partialRefresh) [] = true := by decide
theorem test_decode_waitIdle : decodesTo (word 0x04#8 0#8) .waitIdle [] = true := by decide
theorem test_decode_updateFrame : decodesTo (wordAB 0x10#8) (.updateFrame [0xA1#8, 0xA2#8]) [0xB1#8] = true := by decide
/-- 95_test_vectors.md P3 step 3. -/
theorem test_decode_updatePartialFrame :
    decodesTo [0x11#8, 0#8, 0#8, 0#8, 0x08#8, 0#8, 0x0A#8, 0#8, 0x10#8, 0#8, 0x02#8, 0#8, 0x04#8, 0#8, 0#8, 0#8,
        0x11#8, 0x22#8, 0x33#8, 0x44#8]
      (.updatePartialFrame 8#16 10#16 16#16 2#16 [0x11#8, 0x22#8, 0x33#8, 0x44#8]) [] = true := by decide
theorem test_decode_updateColorFrame :
    decodesTo (wordAB 0x12#8) (.updateColorFrame [0xA1#8, 0xA2#8] [0xB1#8]) [] = true := by decide
theorem test_decode_updateAchromaticFrame :
    decodesTo (wordAB 0x13#8) (.updateAchromaticFrame [0xA1#8, 0xA2#8]) [0xB1#8] = true := by decide
theorem test_decode_updateChromaticFrame :
    decodesTo (wordAB 0x14#8) (.updateChromaticFrame [0xA1#8, 0xA2#8]) [0xB1#8] = true := by decide
theorem test_decode_displayFrame : decodesTo (word 0x18#8 0#8) .displayFrame [] = true := by decide
theorem test_decode_updateAndDisplayFrame :
    decodesTo (wordAB 0x19#8) (.updateAndDisplayFrame [0xA1#8, 0xA2#8]) [0xB1#8] = true := by decide
theorem test_decode_clearFrame : decodesTo (word 0x1A#8 0#8) .clearFrame [] = true := by decide
theorem test_decode_setBackgroundColor : decodesTo (word 0x20#8 0xAA#8) (.setBackgroundColor 0xAA#8) [] = true := by
  decide
theorem test_decode_getBackgroundColor : decodesTo (word 0x21#8 0#8) .getBackgroundColor [] = true := by decide
/-- 95_test_vectors.md L2.8: RSVD and X are ignored. -/
theorem test_decode_getWidth :
    decodesTo [0x22#8, 0#8, 0xFF#8, 0xFF#8, 0x34#8, 0x12#8, 0#8, 0#8, 0#8, 0#8, 0#8, 0#8, 0#8, 0#8, 0#8, 0#8]
      .getWidth [] = true := by decide
theorem test_decode_getHeight : decodesTo (word 0x23#8 0#8) .getHeight [] = true := by decide

/-- 95_test_vectors.md L2.8: the opcodes that are not assigned. -/
theorem test_decode_refuses_unassigned :
    [0x00#8, 0x05#8, 0x0F#8, 0x15#8, 0x17#8, 0x1B#8, 0x1F#8, 0x24#8, 0xFF#8].all
      (fun op => match decodeRequest (word op 0#8) with
        | .error (.illegalOp o) => decide (o = op)
        | _ => false) = true := by decide

/-- R100's table of commands and payloads. -/
theorem test_decode_cmdDriverOutputControl :
    commandIs [0x01#8, 0xF9#8, 0x00#8, 0x00#8] (.cmdDriverOutputControl 249#16 true true true) = true := by decide
/-- 95_test_vectors.md L2.1: DriverOutput(296,F,T,T) = [28,01,04]. -/
theorem test_decode_cmdDriverOutputControl_flag :
    commandIs [0x01#8, 0x28#8, 0x01#8, 0x04#8] (.cmdDriverOutputControl 296#16 false true true) = true := by decide
theorem test_decode_cmdDeepSleepMode : commandIs [0x10#8, 0x01#8] (.cmdDeepSleepMode 0x01#8) = true := by decide
/-- 95_test_vectors.md L2.1: DataEntry(1,1) = 0x05. -/
theorem test_decode_cmdDataEntryMode : commandIs [0x11#8, 0x05#8] (.cmdDataEntryMode 1#2 true) = true := by decide
theorem test_decode_cmdSwReset : commandIs [0x12#8] .cmdSwReset = true := by decide
theorem test_decode_cmdTemperatureSensor : commandIs [0x18#8, 0x80#8] .cmdTemperatureSensor = true := by decide
theorem test_decode_cmdMasterActivation : commandIs [0x20#8] .cmdMasterActivation = true := by decide
theorem test_decode_cmdDisplayUpdateControl1 :
    commandIs [0x21#8, 0x80#8, 0x80#8] .cmdDisplayUpdateControl1 = true := by decide
theorem test_decode_cmdDisplayUpdateControl2 :
    commandIs [0x22#8, 0xF7#8] (.cmdDisplayUpdateControl2 0xF7#8) = true := by decide
theorem test_decode_cmdWriteRamBw :
    commandIs [0x24#8, 0x11#8, 0x22#8] (.cmdWriteRamBw [0x11#8, 0x22#8]) = true := by decide
theorem test_decode_cmdWriteRamRed : commandIs [0x26#8, 0x11#8] (.cmdWriteRamRed [0x11#8]) = true := by decide
theorem test_decode_cmdWriteLut : commandIs [0x32#8, 0xB0#8] (.cmdWriteLut [0xB0#8]) = true := by decide
theorem test_decode_cmdBorderWaveform : commandIs [0x3C#8, 0x03#8] (.cmdBorderWaveform 0x03#8) = true := by decide
theorem test_decode_cmdSetRamXWindow :
    commandIs [0x44#8, 0x01#8, 0x02#8] (.cmdSetRamXWindow 0x01#8 0x02#8) = true := by decide
/-- 95_test_vectors.md L2.4: 300 and 599 little-endian. -/
theorem test_decode_cmdSetRamYWindow :
    commandIs [0x45#8, 0x2C#8, 0x01#8, 0x57#8, 0x02#8] (.cmdSetRamYWindow 300#16 599#16) = true := by decide
theorem test_decode_cmdSetRamXCounter : commandIs [0x4E#8, 0x0F#8] (.cmdSetRamXCounter 15#8) = true := by decide
theorem test_decode_cmdSetRamYCounter : commandIs [0x4F#8, 0x00#8, 0x01#8] (.cmdSetRamYCounter 256#16) = true := by
  decide
/-- A command byte outside R100's table, a payload too short, and a command frame without its data frame. -/
theorem test_decode_refuses_commands :
    [[0x23#8], [0x44#8, 0x01#8], [0x24#8], [0x12#8, 0x00#8], ([] : List Byte)].all
      (fun b => match decodeCommand b with
        | .ok _ => false
        | .error _ => true) = true := by decide

/-- The opcode table's words: a host operation's, and a bus command's that no host operation has. -/
theorem test_tableWord_host : decodeTableWord 8 0x1A = some .clearFrame := by decide
theorem test_tableWord_bus : decodeTableWord 8 0x3C = some (.cmdBorderWaveform 0#8) := by decide

/-! ## The encoders (95_test_vectors.md L1.1, L1.2, L2.1) -/

theorem test_borderWaveform :
    [borderWaveform 0 0 3, borderWaveform 2 1 0, borderWaveform 3 3 3, borderWaveform 1 2 1, borderWaveform 4 5 6]
      = [0x03#8, 0x90#8, 0xF3#8, 0x61#8, 0x12#8] := by decide
theorem test_driverOutput :
    driverOutput 249 true true true = [0xF9#8, 0x00#8, 0x00#8]
    ∧ driverOutput 300 true true false = [0x2C#8, 0x01#8, 0x01#8]
    ∧ driverOutput 0 false false false = [0x00#8, 0x00#8, 0x07#8]
    ∧ driverOutput 65541 true false true = [0x05#8, 0x00#8, 0x02#8] := by decide
theorem test_dataEntry : [dataEntry 3 0, dataEntry 3 1, dataEntry 1 1, dataEntry 7 3] = [0x03#8, 0x07#8, 0x05#8, 0x07#8] := by
  decide
theorem test_compose :
    composeDuc2 params displayActions = 0xF7#8 ∧ composeDuc2 params sleepActions = 0xC3#8
    ∧ composeDuc2 params [] = 0x00#8 ∧ composeDuc2 params [.disableClock, .enableClock] = 0x81#8 := by decide

/-! ## Reset (10_state.md R37) -/

theorem test_reset_window :
    (List.range 16).map (windowRead (State.resetOf .legacy params)) = [0, 0, 0, 0xFF, 0, 0, 0, 0, 0, 0, 0, 0, 0, 0, 5, 0] := by
  decide
/-- State.reset is an idle engine with nothing to come and an empty trace (R281). -/
theorem test_reset_idle : State.reset.active = false ∧ State.reset.trace = [] ∧ State.reset.host = [] := by decide

/-! ## Host operations -/

/-- 95_test_vectors.md L2.5 item 1: the last event of INIT, its end registers and its count, 92. -/
theorem test_init :
    nextIs (exec .init (idle .legacy .sleeping (oks 90))) (fun t => statusByte t == 0x00#8 && t.pstate == .ready
      && t.trace.length == 92 && t.shadow.winXE == 15#8 && t.shadow.winYE == 249#16 && pinsNumber t.pins == 7
      && t.refresh == .fullRefresh && t.duc2Acc == 0x00#8) = true := by decide +kernel
/-- L2.2 item 5: an error on INIT's first event. -/
theorem test_init_error :
    nextIs (exec .init { idle .v4 .ready [.err 1] with pins := { Pins.atReset with dc := .high } }) (fun t =>
      statusByte t == 0x01#8 && t.errInfo == 1 && t.pstate == .uninitialized && pinsNumber t.pins == 7
        && t.trace == [{ txn := .pinSet .rstN .low, answer := .err 1 }]) = true := by decide
/-- L2.5 item 4. -/
theorem test_sleep_v4 :
    endsWith (exec .sleep (idle .v4 .ready (oks 21))) 0x00#8
      (evWaitOk ++ evCmd 0x22#8 ++ evDat [0xC3#8] ++ evCmd 0x20#8 ++ evCmd 0x10#8 ++ evDat [0x01#8]) = true := by decide
/-- L2.5 item 7. -/
theorem test_sleep_error :
    nextIs (exec .sleep (idle .v4 .ready [.err 7])) (fun t =>
      statusByte t == 0x01#8 && t.errInfo == 7 && t.pstate == .uninitialized && t.trace.length == 1) = true := by decide
/-- L2.5 item 8, with L = 4, and item 12: an error at the seventh event. -/
theorem test_setLut_partial :
    nextIs (exec (.setLut .partialRefresh) (idle .v4 .ready (oks 11))) (fun t => t.refresh == .partialRefresh
      && t.trace == evCmd 0x32#8 ++ evDat [0xB0#8, 0xB1#8, 0xB2#8, 0xB3#8]) = true
    ∧ nextIs (exec (.setLut .partialRefresh) (idle .v4 .ready (oks 6 ++ [.err 2]))) (fun t => t.refresh == .fullRefresh
      && statusByte t == 0x01#8 && t.trace.length == 7 && t.pstate == .ready) = true := by decide
/-- L2.5 item 11. -/
theorem test_setLut_legacy :
    nextIs (exec (.setLut .partialRefresh) (idle .legacy .sleeping [])) (fun t => statusByte t == 0x00#8
      && t.refresh == .fullRefresh && t.trace == []) = true := by decide
/-- L2.3, with samples H, H, L: the first step ends at the poll interval after the first sample. -/
theorem test_waitIdle_busy :
    nextIs (exec .waitIdle (idle .v4 .uninitialized [.ok .high, .ok .high, .ok .low])) (fun t => t.active
      && t.trace == evSample .high && t.pend == some (.delay 5) && t.polls == some 1) = true := by decide
/-- L2.3, deadline 1. -/
theorem test_waitIdle_deadline :
    endsWith (exec .waitIdle { idle .v4 .ready [.ok .high] with params := limited 1 }) 0x06#8 (evSample .high) = true := by
  decide
/-- L2.2 item 4: an error at the sixth event, in the data frame of 0x44. -/
theorem test_updateFrame_error :
    nextIs (exec (.updateFrame (List.replicate 4000 0#8)) (idle .v4 .ready (oks 5 ++ [.err 0x33]))) (fun t =>
      statusByte t == 0x01#8 && t.errInfo == 0x33 && t.shadow == Shadow.zero && pinsNumber t.pins == 4
        && t.pstate == .ready && t.trace == evCmd 0x44#8 ++ evPin .csN .low
          ++ [{ txn := .pinSet .dc .high, answer := .err 0x33 }]) = true := by decide +kernel
/-- L1.4: no byte. -/
theorem test_updateFrame_empty : endsWith (exec (.updateFrame []) (idle .v4 .ready [])) 0x02#8 [] = true := by decide
/-- L2.6 item 3. -/
theorem test_updatePartialFrame :
    nextIs (exec (.updatePartialFrame 8#16 10#16 16#16 2#16 [0x11#8, 0x22#8, 0x33#8, 0x44#8])
        { idle .v4 .ready (oks 49) with refresh := .partialRefresh }) (fun t => statusByte t == 0x00#8
      && t.trace == evCmd 0x44#8 ++ evDat [0x01#8, 0x02#8] ++ evCmd 0x45#8 ++ evDat [0x0A#8, 0#8, 0x0B#8, 0#8] ++ evWaitOk
        ++ evCmd 0x4E#8 ++ evDat [0x01#8] ++ evCmd 0x4F#8 ++ evDat [0x0A#8, 0#8] ++ evCmd 0x24#8
        ++ evDat [0x11#8, 0x22#8, 0x33#8, 0x44#8]
      && t.shadow == { winXS := 1#8, winXE := 2#8, winYS := 10#16, winYE := 11#16, curX := 1#8, curY := 10#16 })
      = true := by decide +kernel
/-- L2.6 item 5, the pre-check rows of the table: w = 0; 128 > 122; 251 > 250; 7 < 8; one byte needed; none too many. -/
theorem test_updatePartialFrame_checks :
    ([((0, 0, 0, 8), 0), ((120, 0, 8, 1), 1), ((0, 249, 8, 2), 2), ((0, 0, 1, 7), 0), ((0, 0, 1, 8), 2), ((0, 0, 1, 8), 1),
        ((114, 0, 8, 250), 250)].map
      (fun r : (Nat × Nat × Nat × Nat) × Nat => preCheck (.updatePartialFrame (BitVec.ofNat 16 r.1.1)
        (BitVec.ofNat 16 r.1.2.1) (BitVec.ofNat 16 r.1.2.2.1) (BitVec.ofNat 16 r.1.2.2.2) (List.replicate r.2 0#8))
        (idle .v4 .ready [])))
      = [some .invalidGeometry, some .invalidGeometry, some .invalidGeometry, some .invalidGeometry,
          some .invalidBufferLength, none, none] := by decide +kernel
/-- L2.6 item 7: BUF_B one byte short. -/
theorem test_updateColorFrame_short :
    preCheck (.updateColorFrame (List.replicate 4000 0#8) (List.replicate 3999 0#8)) (idle .v4 .ready [])
      = some .invalidBufferLength := by decide +kernel
/-- L2.6 items 6 and 8: the chromatic plane is inverted on LEGACY and not on V4. -/
theorem test_chroma :
    chroma .legacy [0x0F#8, 0x00#8] = [0xF0#8, 0xFF#8] ∧ chroma .v4 [0x0F#8, 0x00#8] = [0x0F#8, 0x00#8] := by decide
/-- The chromatic and achromatic planes start alike, at the window (L2.6 items 8 and 9); a silent transport leaves them at
the fifth transaction. -/
theorem test_updateChromaticFrame :
    nextIs (exec (.updateChromaticFrame (List.replicate 4000 0#8)) (idle .legacy .ready (oks 4))) (fun t => t.active
      && t.pend == some (.pinSet .csN .low) && t.trace == evCmd 0x44#8) = true := by decide +kernel
theorem test_updateAchromaticFrame :
    nextIs (exec (.updateAchromaticFrame (List.replicate 4000 0#8)) (idle .v4 .ready (oks 4))) (fun t => t.active
      && t.pend == some (.pinSet .csN .low) && t.trace == evCmd 0x44#8) = true := by decide +kernel
/-- L2.6 item 10. -/
theorem test_displayFrame :
    nextIs (exec .displayFrame (idle .v4 .ready (oks 13))) (fun t => t.duc2Acc == 0xF7#8 && statusByte t == 0x00#8
      && t.trace == evCmd 0x22#8 ++ evDat [0xF7#8] ++ evCmd 0x20#8 ++ evWaitOk) = true := by decide
/-- L2.6 item 11. -/
theorem test_displayFrame_error :
    nextIs (exec .displayFrame (idle .v4 .ready (oks 2 ++ [.err 0x5A]))) (fun t => t.duc2Acc == 0xF7#8
      && statusByte t == 0x01#8 && t.errInfo == 0x5A && pinsNumber t.pins == 4 && t.pstate == .ready) = true := by decide
/-- L2.6 item 12: an error in the update part, and nothing of the display part. -/
theorem test_updateAndDisplayFrame_error :
    nextIs (exec (.updateAndDisplayFrame (List.replicate 4000 0#8)) (idle .v4 .ready (oks 5 ++ [.err 0x33]))) (fun t =>
      statusByte t == 0x01#8 && t.trace.length == 6 && t.duc2Acc == 0x00#8) = true := by decide +kernel
/-- L1.7. -/
theorem test_clearFrame_sleeping : endsWith (exec .clearFrame (idle .v4 .sleeping (oks 5))) 0x05#8 [] = true := by decide
/-- L2.7. -/
theorem test_setBackgroundColor :
    nextIs (exec (.setBackgroundColor 0xAA#8) (idle .v4 .sleeping [])) (fun t => t.bg == 0xAA#8 && t.result == 0#16
      && t.trace == []) = true := by decide
theorem test_getBackgroundColor :
    nextIs (exec .getBackgroundColor (idle .v4 .sleeping [])) (fun t => t.result == 0x00FF#16 && t.bg == 0xFF#8) = true := by
  decide
theorem test_getWidth :
    nextIs (exec .getWidth (idle .legacy .uninitialized [])) (fun t => t.result == 0x007A#16) = true := by decide
theorem test_getHeight :
    nextIs (exec .getHeight (idle .legacy .uninitialized [])) (fun t => t.result == 0x00FA#16) = true := by decide

/-! ## Bus commands, emitted inside an operation -/

/-- L1.2: INIT's 0x01 payload; then the payloads of R140 to R155 as 95_test_vectors.md L2.5 item 1 and L2.4 print them. -/
theorem test_cmdDriverOutputControl :
    nextIs (exec (.cmdDriverOutputControl 249#16 true true true) (busyWith (oks 10))) (fun t =>
      t.trace == evCmd 0x01#8 ++ evDat [0xF9#8, 0x00#8, 0x00#8]) = true := by decide
theorem test_cmdDeepSleepMode :
    nextIs (exec (.cmdDeepSleepMode 0x01#8) (busyWith (oks 8))) (fun t => t.trace == evCmd 0x10#8 ++ evDat [0x01#8]) = true := by
  decide
theorem test_cmdDataEntryMode :
    nextIs (exec (.cmdDataEntryMode 3#2 true) (busyWith (oks 8))) (fun t => t.trace == evCmd 0x11#8 ++ evDat [0x07#8])
      = true := by decide
/-- L2.2 item 1. -/
theorem test_cmdSwReset :
    nextIs (exec .cmdSwReset (busyWith (oks 4))) (fun t => t.trace == evPin .csN .low ++ evPin .dc .low
      ++ evBytes [0x12#8] ++ evPin .csN .high) = true := by decide
theorem test_cmdTemperatureSensor :
    nextIs (exec .cmdTemperatureSensor (busyWith (oks 8))) (fun t => t.trace == evCmd 0x18#8 ++ evDat [0x80#8]) = true := by
  decide
theorem test_cmdMasterActivation :
    nextIs (exec .cmdMasterActivation (busyWith (oks 4))) (fun t => t.trace == evCmd 0x20#8 && t.active) = true := by decide
/-- L2.2 item 2. -/
theorem test_cmdDisplayUpdateControl1 :
    nextIs (exec .cmdDisplayUpdateControl1 (busyWith (oks 9))) (fun t => t.trace.length == 9 && t.pins.csN == .high
      && t.pins.dc == .high && t.trace == evCmd 0x21#8 ++ evDat [0x80#8, 0x80#8]) = true := by decide
theorem test_cmdDisplayUpdateControl2 :
    nextIs (exec (.cmdDisplayUpdateControl2 0xF7#8) (busyWith (oks 8))) (fun t =>
      t.trace == evCmd 0x22#8 ++ evDat [0xF7#8] && t.duc2Acc == 0x00#8) = true := by decide
theorem test_cmdWriteRamBw :
    nextIs (exec (.cmdWriteRamBw [0x11#8, 0x22#8]) (busyWith (oks 9))) (fun t =>
      t.trace == evCmd 0x24#8 ++ evDat [0x11#8, 0x22#8]) = true := by decide
theorem test_cmdWriteRamRed :
    nextIs (exec (.cmdWriteRamRed [0x0F#8]) (busyWith (oks 8))) (fun t => t.trace == evCmd 0x26#8 ++ evDat [0x0F#8]) = true := by
  decide
theorem test_cmdWriteLut :
    nextIs (exec (.cmdWriteLut [0xB0#8]) (busyWith (oks 8))) (fun t => t.trace == evCmd 0x32#8 ++ evDat [0xB0#8]) = true := by
  decide
theorem test_cmdBorderWaveform :
    nextIs (exec (.cmdBorderWaveform 0x03#8) (busyWith (oks 8))) (fun t => t.trace == evCmd 0x3C#8 ++ evDat [0x03#8]) = true := by
  decide
/-- L2.4. -/
theorem test_cmdSetRamXWindow :
    nextIs (exec (.cmdSetRamXWindow 0x01#8 0x02#8) (busyWith (oks 9))) (fun t => t.shadow.winXS == 1#8 && t.shadow.winXE == 2#8
      && t.trace == evCmd 0x44#8 ++ evDat [0x01#8, 0x02#8]) = true := by decide
theorem test_cmdSetRamYWindow :
    nextIs (exec (.cmdSetRamYWindow 300#16 599#16) (busyWith (oks 11))) (fun t => t.shadow.winYS == 300#16
      && t.shadow.winYE == 599#16 && t.trace == evCmd 0x45#8 ++ evDat [0x2C#8, 0x01#8, 0x57#8, 0x02#8]) = true := by decide
theorem test_cmdSetRamXCounter :
    nextIs (exec (.cmdSetRamXCounter 15#8) (busyWith (oks 8))) (fun t => t.shadow.curX == 15#8
      && t.trace == evCmd 0x4E#8 ++ evDat [0x0F#8]) = true := by decide
theorem test_cmdSetRamYCounter :
    nextIs (exec (.cmdSetRamYCounter 256#16) (busyWith (oks 9))) (fun t => t.shadow.curY == 256#16
      && t.trace == evCmd 0x4F#8 ++ evDat [0x00#8, 0x01#8]) = true := by decide

/-! ## Steps and the port -/

/-- P4 step 2: OP 0x05 completes with ILLEGAL_OPERATION and no event. -/
theorem test_step_illegalOp :
    endsWith (step { idle .v4 .uninitialized [] with host := [.request (word 0x05#8 0#8)] }) 0x07#8 [] = true := by decide
/-- P1 step 1, then the descriptor of step 2 waiting behind it. -/
theorem test_step_takes_one_request :
    nextIs (step { idle .v4 .uninitialized [] with
        host := [.request (word 0x20#8 0xFF#8), .request (word 0x01#8 0#8)] }) (fun t =>
      t.host == [.request (word 0x01#8 0#8)] && t.bg == 0xFF#8 && statusByte t == 0x00#8) = true := by decide
/-- A request with a stream byte missing is refused, and one with a byte too many (R92, I4). -/
theorem test_step_refuses_short :
    (match step { idle .v4 .ready [] with host := [.request [0x10#8, 0#8, 0#8, 0#8, 0#8, 0#8, 0#8, 0#8, 0#8, 0#8, 0#8, 0#8,
        0x02#8, 0#8, 0#8, 0#8, 0xA1#8]] } with
      | .refused r => decide (r = .requestTooShort)
      | _ => false) = true := by decide
theorem test_step_refuses_surplus :
    (match step { idle .v4 .ready [] with host := [.request (word 0x22#8 0#8 ++ [0xA1#8])] } with
      | .refused r => decide (r = .surplusStreamBytes)
      | _ => false) = true := by decide
/-- withFetchWord places a host operation's word and a bus command's. -/
theorem test_withFetchWord_host :
    nextIs (step (State.reset.withFetchWord 8 0x22)) (fun t => t.result == 0x007A#16) = true := by decide
theorem test_withFetchWord_bus :
    nextIs (step (State.reset.withFetchWord 8 0x3C)) (fun t => t.active && t.pend == some (.pinSet .csN .low)) = true := by
  decide

/-! ## The observer (20_memory.md R70 to R77) -/

/-- L2.6 item 3's observer: bankA[161, 162, 177, 178] = 11, 22, 33, 44, and the cursor back at (1, 10). -/
theorem test_observer_partial :
    (let o := observe (evRamWrite 0x24#8 { startX := 8, startY := 10, endX := 23, endY := 11 }
        [0x11#8, 0x22#8, 0x33#8, 0x44#8]);
      o.bankA = [(161, 0x11#8), (162, 0x22#8), (177, 0x33#8), (178, 0x44#8)] ∧ o.bankC = []
        ∧ o.cx = some 1 ∧ o.cy = some 10) := by decide
/-- R74 with the rows unknown: each byte makes the bank unknown, and the known column still advances and wraps. -/
theorem test_observer_partlyKnown :
    let o := observe (evCmd 0x44#8 ++ evDat [0x02#8, 0x03#8] ++ evCmd 0x4E#8 ++ evDat [0x02#8] ++ evCmd 0x24#8)
    let seen := fun bytes => (evDat bytes).foldl Observer.see o
    (seen [0xAA#8]).cx = some 3 ∧ (seen [0xAA#8, 0xBB#8]).cx = some 2 ∧ (seen [0xAA#8]).cy = none
      ∧ (seen [0xAA#8]).bankA = [] := by decide

/-- P3's end: INIT's reset pulse makes both banks unknown. -/
theorem test_observer_resetPulse :
    (observe (evRamWrite 0x26#8 { startX := 0, startY := 0, endX := 7, endY := 0 } [0x5A#8] ++ evPin .rstN .low
      ++ evPin .rstN .high)).bankC = [] := by decide

/-- R72, I16: the byte accepted before a failed closing PinSet stays in the bank; I1: what is accepted after it is of no known
frame. -/
theorem test_observer_failedClosingPin :
    let frame := evRamWrite 0x26#8 { startX := 0, startY := 0, endX := 7, endY := 0 } [0x5A#8]
    let o := observe (frame.dropLast ++ [{ txn := .pinSet .csN .high, answer := .err 1 }])
    o.bankC = [(0, 0x5A#8)] ∧ o.cy = some 0 ∧ o.cmd = some 0x26#8 ∧ ((evCmd 0x20#8).foldl Observer.see o).bankC = [] := by
  decide

/-! ## Witnesses: states and operands that meet the hypotheses of each statement together -/

/-- `n` answers Ok and idle are what a script of them is heard as. -/
theorem hears (s : State) (n : Nat) (more : List Move) (h : s.env.script = oks n ++ more) : s.hearsIdle n more :=
  ⟨oks n, h, List.length_replicate, fun m hm => ⟨.low, List.eq_of_mem_replicate hm, by cases s.rev <;> rfl⟩⟩

theorem hears_idle (rev : Rev) (p : PowerState) (n : Nat) : (idle rev p (oks n)).hearsIdle n [] :=
  hears _ n [] (List.append_nil _).symm

theorem hearsOk_busy (n : Nat) : (busyWith (oks n)).hearsOk n [] :=
  State.hearsOk_of_idle (hears _ n [] (List.append_nil _).symm)

theorem witness_RequestRoundTrip :
    (Instr.updateColorFrame [0xA1#8] [0xB1#8]).isBus = false ∧ (Instr.updateColorFrame [0xA1#8] [0xB1#8]).wellFormed = true := by
  decide

theorem witness_CommandBytesOneToOne :
    (Instr.cmdSetRamYWindow 300#16 599#16).isBus = true ∧ (Instr.cmdSetRamYWindow 300#16 599#16).wellFormed = true
    ∧ decodeCommand [0x44#8, 0x01#8, 0x02#8] = .ok (.cmdSetRamXWindow 0x01#8 0x02#8) := ⟨rfl, rfl, rfl⟩

/-- A descriptor of SET_LUT, one of SET_BACKGROUND_COLOR, one of UPDATE_PARTIAL_FRAME and one of UPDATE_COLOR_FRAME, each
beside one that differs from it in ignored bits. -/
def descriptor (op imm8 : Byte) (rsvd x lenA lenB : Half) : Descriptor :=
  { op := op, imm8 := imm8, rsvd := rsvd, x := x, y := 0#16, w := 8#16, h := 1#16, lenA := lenA, lenB := lenB }

theorem witness_IgnoredBitsChangeNothing :
    [(descriptor 0x03#8 0x01#8 0#16 0#16 0#16 0#16, descriptor 0x03#8 0xFF#8 7#16 9#16 5#16 6#16),
      (descriptor 0x20#8 0xAA#8 0#16 0#16 0#16 0#16, descriptor 0x20#8 0xAA#8 7#16 9#16 5#16 6#16),
      (descriptor 0x11#8 0x00#8 0#16 3#16 1#16 0#16, descriptor 0x11#8 0xFF#8 7#16 3#16 1#16 6#16),
      (descriptor 0x12#8 0x00#8 0#16 3#16 1#16 2#16, descriptor 0x12#8 0xFF#8 7#16 9#16 1#16 2#16)].all
      (fun q => decide (q.1 ≠ q.2 ∧ q.1.op = q.2.op ∧ (q.1.op.toNat = 0x03 → q.1.imm8.toNat % 2 = q.2.imm8.toNat % 2)
        ∧ (q.1.op.toNat = 0x20 → q.1.imm8 = q.2.imm8)
        ∧ (q.1.op.toNat = 0x11 → q.1.x = q.2.x ∧ q.1.y = q.2.y ∧ q.1.w = q.2.w ∧ q.1.h = q.2.h)
        ∧ (q.1.op.toNat ∈ [0x10, 0x11, 0x12, 0x13, 0x14, 0x19] → q.1.lenA = q.2.lenA)
        ∧ (q.1.op.toNat = 0x12 → q.1.lenB = q.2.lenB))) = true := by decide

theorem witness_StepRunsTheRequest :
    ∃ (i : Instr) (rest : List HostMove) (s : State), i.isBus = false ∧ i.wellFormed = true ∧ s.active = false
      ∧ s.host = .request (encode i) :: rest :=
  ⟨.updateFrame [0xA1#8], [], { idle .v4 .ready [] with host := [.request (encode (.updateFrame [0xA1#8]))] },
    rfl, by decide, rfl, rfl⟩

theorem witness_StepRunsTheNextCommand :
    ∃ (c : Instr) (rest : List Item) (s : State), c.isBus = true ∧ c.wellFormed = true ∧ s.active = true ∧ s.pend = none
      ∧ s.seq = commandItems c ++ rest :=
  ⟨.cmdSwReset, [.finish], { busyWith [] with seq := commandItems .cmdSwReset ++ [.finish] }, rfl, rfl, rfl, rfl, rfl⟩

theorem witness_IdleEngineWaits : State.reset.active = false ∧ State.reset.host = [] := ⟨rfl, rfl⟩

/-- WAIT_IDLE waiting for its sample. -/
def waiting (env : Env) : State :=
  { busyWith [] with pend := some .pinGet, seq := [.finish], polls := some 0, env := env }

theorem witness_SilentTransportKeepsTheEngineWaiting :
    let s := waiting { script := [], loop := [] }
    s.active = true ∧ s.pend = some .pinGet ∧ Transaction.pinGet.isAsked = true ∧ s.env.script = [] ∧ s.env.loop = [] :=
  ⟨rfl, rfl, rfl, rfl, rfl⟩

theorem witness_NoRequestWhileActive : (waiting { script := [], loop := [] }).active = true ∧ Instr.getWidth.isBus = false :=
  ⟨rfl, rfl⟩

/-- Both ends of each range of unassigned opcodes. -/
theorem witness_UnassignedOpIsIllegal :
    (word 0x00#8 0#8).tail.length = 15
    ∧ [0x00#8, 0x05#8, 0x0F#8, 0x15#8, 0x17#8, 0x1B#8, 0x1F#8, 0x24#8, 0xFF#8].all (fun op : Byte => decide
      (op.toNat = 0x00 ∨ (0x05 ≤ op.toNat ∧ op.toNat ≤ 0x0F) ∨ (0x15 ≤ op.toNat ∧ op.toNat ≤ 0x17)
        ∨ (0x1B ≤ op.toNat ∧ op.toNat ≤ 0x1F) ∨ 0x24 ≤ op.toNat)) = true
    ∧ ({ idle .v4 .ready [] with host := [.request (word 0x24#8 0#8)] } : State).active = false := by decide

theorem witness_StatusAndReservedNumbers : 0xF ≤ 0xF ∧ 0xF ≤ 0xFF := by decide

theorem witness_EngineResetResetsEveryRegister :
    let idling := { idle .v4 .ready [] with host := [HostMove.reset] }
    let s := waiting { script := [.reset], loop := [] }
    let paused := { s with pend := some (.delay 5), seq := [.issue .pinGet, .finish], polls := some 1 }
    (idling.active = false ∧ idling.host = .reset :: [])
    ∧ (s.active = true ∧ s.pend = some .pinGet ∧ s.env.next = some (.reset, { script := [], loop := [] }))
    ∧ (paused.active = true ∧ paused.pend = some (.delay 5)
      ∧ paused.env.next = some (.reset, { script := [], loop := [] })) :=
  ⟨⟨rfl, rfl⟩, ⟨rfl, rfl, rfl⟩, rfl, rfl, rfl⟩

/-- R283: a reset in INIT's first delay ends it there; after the delay, with a wait before it, at the next transaction. -/
theorem test_reset_inDelay :
    endsWith (exec .init (idle .v4 .ready [.ok .low, .reset])) 0x00#8
      (evPin .rstN .low ++ [{ txn := .delay 10, answer := .cut }]) = true := by decide
theorem test_reset_afterDelay :
    nextIs (exec .init (idle .v4 .ready [.ok .low, .wait, .reset])) (fun t =>
      endsWith (step t) 0x00#8 (evPin .rstN .low ++ evDelay 10 ++ [{ txn := .pinSet .rstN .high, answer := .cut }])) = true := by
  decide

/-- R36(a): SET_LUT with all of IMM8 and the rectangle set, waiting for its first answer. -/
theorem test_request_latched :
    nextIs (step { idle .v4 .ready [] with host := [.request [0x03#8, 0xFF#8, 0x12#8, 0x34#8, 0x00#8, 0x01#8, 0x02#8,
        0x03#8, 0x04#8, 0x05#8, 0x06#8, 0x07#8, 0x08#8, 0x09#8, 0x0A#8, 0x0B#8]] }) (fun t =>
      t.active && t.req == some ⟨0x03#8, 0xFF#8, 0x0100#16, 0x0302#16, 0x0504#16, 0x0706#16, [], []⟩) = true := by decide

theorem witness_InitMakesReady :
    (idle .v4 .sleeping (oks 90)).active = false ∧ (idle .v4 .sleeping (oks 90)).hearsIdle 90 [] :=
  ⟨rfl, hears_idle _ _ _⟩

theorem witness_SleepMakesSleeping :
    ((idle .v4 .ready (oks 21)).active = false ∧ (idle .v4 .ready (oks 21)).pstate = .ready
      ∧ (idle .v4 .ready (oks 21)).rev = .v4 ∧ (idle .v4 .ready (oks 21)).hearsIdle 21 [])
    ∧ ((idle .legacy .ready (oks 9)).active = false ∧ (idle .legacy .ready (oks 9)).pstate = .ready
      ∧ (idle .legacy .ready (oks 9)).rev = .legacy ∧ (idle .legacy .ready (oks 9)).hearsIdle 9 []) :=
  ⟨⟨rfl, rfl, rfl, hears_idle _ _ _⟩, rfl, rfl, rfl, hears_idle _ _ _⟩

/-- L2.5 items 8 and 11; the error answers the eleventh event, the closing PinSet. -/
theorem witness_SetLutSelectsTheRefreshMode :
    ((idle .v4 .ready (oks 11)).active = false ∧ (idle .v4 .ready (oks 11)).rev = .v4
      ∧ (idle .v4 .ready (oks 11)).pstate = .ready ∧ params.wf = true
      ∧ (idle .v4 .ready (oks 11)).hearsOk (7 + params.lutLen) [])
    ∧ (idle .v4 .ready (oks 10 ++ [.err 2])).env.script = oks 10 ++ .err 2 :: [] ∧ (∀ m ∈ oks 10, m = .ok .low)
    ∧ (oks 10).length < 7 + params.lutLen
    ∧ ((idle .legacy .sleeping []).active = false ∧ (idle .legacy .sleeping []).rev = .legacy) :=
  ⟨⟨rfl, rfl, rfl, by decide, State.hearsOk_of_idle (hears_idle _ _ _)⟩, rfl, fun _ h => List.eq_of_mem_replicate h, by decide,
    rfl, rfl⟩

theorem witness_WaitIdleCompletes :
    (idle .v4 .uninitialized (oks 1)).active = false ∧ (idle .v4 .uninitialized (oks 1)).hearsIdle 1 [] :=
  ⟨rfl, hears_idle _ _ _⟩

/-- A deadline of 3 and two busy samples: the last number of them that stays under it. -/
theorem witness_PollRepeatsUntilIdle :
    let s := { idle .v4 .ready (List.replicate 2 (.ok .high) ++ [.ok .low]) with
      params := limited 3, host := [HostMove.request (encode .waitIdle)] }
    s.active = false ∧ s.host = .request (encode .waitIdle) :: []
      ∧ s.env.script = List.replicate 2 (.ok .high) ++ .ok .low :: [] ∧ ∀ n, s.params.busyPollLimit = some n → 2 < n :=
  ⟨rfl, rfl, rfl, fun n h => by cases h; decide⟩

theorem witness_PollTimesOutAtTheLimit :
    let s := { idle .v4 .ready [.ok .high] with params := limited 1, host := [HostMove.request (encode .waitIdle)] }
    s.active = false ∧ s.host = .request (encode .waitIdle) :: [] ∧ s.params.busyPollLimit = some (0 + 1)
      ∧ s.env.script = List.replicate (0 + 1) (.ok .high) ++ [] := ⟨rfl, rfl, rfl, rfl⟩

theorem witness_StuckBusyHangsForEver :
    let s := { idle .v4 .ready [] with
      env := { script := [], loop := [.ok .high] }, host := [HostMove.request (encode .waitIdle)] }
    s.active = false ∧ s.host = .request (encode .waitIdle) :: [] ∧ s.params.busyPollLimit = none
      ∧ s.env.script = [] ∧ s.env.loop = [.ok .high] := ⟨rfl, rfl, rfl, rfl, rfl⟩

/-- The poll interval after `k` busy samples of WAIT_IDLE's poll. -/
def pausing (p : Params) (k : Nat) (script : List Move) : State :=
  { busyWith script with params := p, pend := some (.delay 5), seq := [.issue .pinGet, .finish], polls := some k }

/-- Two busy samples before a deadline of 3 (the third reaches it), and one before it (the second does not); and a first sample
waited for, with a deadline of 1 and without one. -/
theorem witness_BusySampleCountsTowardsTheDeadline :
    (let s := pausing (limited 3) 2 [.ok .high];
      s.active = true ∧ s.pend = some (.delay 5) ∧ s.seq = .issue .pinGet :: [.finish] ∧ s.polls = some 2
        ∧ s.env.script = .ok .high :: [] ∧ ∃ n, s.params.busyPollLimit = some n ∧ n ≤ 2 + 1)
    ∧ (let s := pausing (limited 3) 1 [.ok .high];
      s.active = true ∧ s.pend = some (.delay 5) ∧ s.seq = .issue .pinGet :: [.finish] ∧ s.polls = some 1
        ∧ s.env.script = .ok .high :: [] ∧ ¬ ∃ n, s.params.busyPollLimit = some n ∧ n ≤ 1 + 1)
    ∧ (let s := { waiting { script := [.ok .high], loop := [] } with params := limited 1 };
      s.active = true ∧ s.pend = some .pinGet ∧ s.seq = [.finish] ∧ s.polls = some 0 ∧ s.env.script = .ok .high :: []
        ∧ ∃ n, s.params.busyPollLimit = some n ∧ n ≤ 0 + 1)
    ∧ (let s := waiting { script := [.ok .high], loop := [] };
      s.active = true ∧ s.pend = some .pinGet ∧ s.seq = [.finish] ∧ s.polls = some 0 ∧ s.env.script = .ok .high :: []
        ∧ s.params.busyPollLimit = none) :=
  ⟨⟨rfl, rfl, rfl, rfl, rfl, 3, rfl, by decide⟩,
    ⟨rfl, rfl, rfl, rfl, rfl, fun ⟨n, h, hn⟩ => by cases h; exact absurd hn (by decide)⟩,
    ⟨rfl, rfl, rfl, rfl, rfl, 1, rfl, by decide⟩, rfl, rfl, rfl, rfl, rfl, rfl⟩

/-- A buffer of a full plane. -/
def plane (b : Byte) : List Byte := List.replicate 4000 b

theorem plane_length (b : Byte) : (plane b).length = 4000 := List.length_replicate

theorem witness_UpdateFrameWritesAndMirrors :
    ((idle .v4 .ready (oks 8090)).active = false ∧ (idle .v4 .ready (oks 8090)).pstate = .ready
      ∧ (plane 0#8).length = 4000 ∧ (idle .v4 .ready (oks 8090)).refresh = .fullRefresh
      ∧ (idle .v4 .ready (oks 8090)).hearsIdle 8090 [])
    ∧ (let s := { idle .v4 .ready (oks 4045) with refresh := .partialRefresh }
      s.active = false ∧ s.pstate = .ready ∧ s.refresh = .partialRefresh ∧ s.hearsIdle 4045 []) :=
  ⟨⟨rfl, rfl, plane_length _, rfl, hears_idle _ _ _⟩, rfl, rfl, rfl, hears _ _ _ (List.append_nil _).symm⟩

/-- The boundary rectangle of L2.6 item 5, (112, 0, 8, 250), in both refresh modes. -/
theorem witness_PartialFrameWritesItsRectangle :
    (1 ≤ (8#16).toNat ∧ 1 ≤ (250#16).toNat ∧ (112#16).toNat + (8#16).toNat ≤ 122 ∧ (0#16).toNat + (250#16).toNat ≤ 250
      ∧ 8 ≤ (8#16).toNat * (250#16).toNat ∧ (List.replicate 250 0#8).length = (8#16).toNat * (250#16).toNat / 8)
    ∧ ((idle .v4 .ready (oks 590)).active = false ∧ (idle .v4 .ready (oks 590)).rev = .v4
      ∧ (idle .v4 .ready (oks 590)).pstate = .ready ∧ (idle .v4 .ready (oks 590)).refresh = .fullRefresh
      ∧ (idle .v4 .ready (oks 590)).hearsIdle (90 + 2 * 250) [])
    ∧ (let s := { idle .v4 .ready (oks 295) with refresh := .partialRefresh }
      s.active = false ∧ s.refresh = .partialRefresh ∧ s.hearsIdle (45 + 250) []) :=
  ⟨⟨by decide, by decide, by decide, by decide, by decide, List.length_replicate⟩,
    ⟨rfl, rfl, rfl, rfl, hears_idle _ _ _⟩, rfl, rfl, hears _ _ _ (List.append_nil _).symm⟩

theorem witness_ColorFramesWriteTheirBanks :
    (plane 0xAA#8).length = 4000 ∧ (plane 0x0F#8).length = 4000
    ∧ ((idle .legacy .ready (oks 8090)).active = false ∧ (idle .legacy .ready (oks 8090)).pstate = .ready
      ∧ (idle .legacy .ready (oks 8090)).hearsIdle 8090 [])
    ∧ (idle .legacy .ready (oks 4045)).hearsIdle 4045 [] ∧ (idle .v4 .ready (oks 4045)).hearsIdle 4045 [] :=
  ⟨plane_length _, plane_length _, ⟨rfl, rfl, hears_idle _ _ _⟩, hears_idle _ _ _, hears_idle _ _ _⟩

theorem witness_DisplayFrameActivates :
    ((idle .v4 .ready (oks 13)).active = false ∧ (idle .v4 .ready (oks 13)).pstate = .ready
      ∧ (idle .v4 .ready (oks 13)).rev = .v4 ∧ (idle .v4 .ready (oks 13)).hearsIdle 13 [])
    ∧ ((idle .legacy .ready (oks 5)).rev = .legacy ∧ (idle .legacy .ready (oks 5)).hearsIdle 5 []) :=
  ⟨⟨rfl, rfl, rfl, hears_idle _ _ _⟩, rfl, hears_idle _ _ _⟩

theorem plane_checked (s : State) (hr : s.pstate = .ready) : preCheck (.updateFrame (plane 0#8)) s = none := by
  rw [preCheck, checkReady, if_pos hr, checkLength, if_pos ((plane_length _).trans (by decide))]
  rfl

/-- In Partial mode a plane goes to bank A and UPDATE_FRAME ends: what the next witness needs of it. -/
theorem updateFrame_ends (s : State) (more : List Move) (ha : s.active = false) (hr : s.pstate = .ready)
    (hf : s.refresh = .partialRefresh) (h : s.hearsIdle 4045 more) :
    ∃ t, exec (.updateFrame (plane 0#8)) s = .next t ∧ t.active = false ∧ t.code = .ok ∧ t.pstate = .ready
      ∧ t.rev = s.rev ∧ t.env.script = more ∧ t.params = s.params := by
  have body : updateFrameBody (plane 0#8) s = ramWriteA fullPanel (plane 0#8) := by simp [updateFrameBody, hf]
  have count : askedCount (ramWriteA fullPanel (plane 0#8)) = 4045 := by
    simp only [ramWriteA, openWindow, setRamArea, setRamAddressCounters, setRamXWindow, setRamYWindow, setRamXCounter,
      setRamYCounter, writeRamBw, sendCommandWithData, sendCommand, sendData, waitUntilIdle, askedCount_append,
      askedCount_frame, plane_length]
    rfl
  have power : ∀ p, pstateAfter (ramWriteA fullPanel (plane 0#8)) p = p := by
    simp [ramWriteA, openWindow, setRamArea, setRamAddressCounters, setRamXWindow, setRamYWindow, setRamXCounter,
      setRamYCounter, writeRamBw, sendCommandWithData, sendCommand, sendData, waitUntilIdle, pstateAfter]
  rw [exec_operation rfl rfl (by simp), plane_checked s hr, sequenceOf, body,
    startOperation_idle (more := more) ha (finish_notMem_ramWriteA _ _)
      (delaysInside_of_none fun us => delay_notMem_ramWriteA us _ _) (by rwa [count])]
  refine ⟨_, rfl, ?_⟩
  simp only [State.complete_active, State.complete_code, State.complete_pstate, State.complete_rev, State.complete_env,
    replay, power, State.accept_rev, State.complete_params,
    State.accept_params, true_and, and_true]
  exact hr

/-- UPDATE_FRAME, in Partial mode, that hears a busy sample and then, after the interval, an error: `n = 1`. -/
theorem witness_UpdateAndDisplayIsTheTwoInTurn_error :
    let s := { idle .legacy .ready (oks 20 ++ [.ok .high, .err 3]) with refresh := .partialRefresh }
    (s.active = false ∧ s.host = [] ∧ s.noReset)
    ∧ nextIs (exec (.updateFrame (plane 0#8)) s) (fun s₁ => s₁.active && nextIs (runSteps 1 s₁) (fun t =>
        t.active == false && t.code == .busError)) = true :=
  ⟨⟨rfl, rfl, by decide, by decide⟩, by decide +kernel⟩

/-- UPDATE_FRAME that ends at once, and DISPLAY_FRAME on LEGACY that hears a busy sample: `m = 1`. -/
theorem witness_UpdateAndDisplayIsTheTwoInTurn :
    ∃ (s t t₁ u : State) (a : List Byte), s.active = false ∧ s.host = [] ∧ s.noReset ∧ exec (.updateFrame a) s = .next t
      ∧ runSteps 0 t = .next t ∧ t.active = false ∧ t.code = .ok ∧ exec .displayFrame t = .next t₁ ∧ t₁.active = true
      ∧ runSteps 1 t₁ = .next u ∧ u.active = false := by
  let s := { idle .legacy .ready (oks 4045 ++ (oks 4 ++ [Move.ok .high, Move.ok .low])) with refresh := .partialRefresh }
  obtain ⟨t, h₁, h₂, h₃, h₄, h₅, h₆, h₇⟩ := updateFrame_ends s (oks 4 ++ [Move.ok .high, Move.ok .low]) rfl rfl rfl (hears _ _ _ rfl)
  have reset : Move.reset ∉ s.env.script := by
    intro h
    obtain h | h := List.mem_append.mp h
    · exact Move.noConfusion (List.eq_of_mem_replicate h)
    · exact absurd h (by decide)
  have display : ∃ t₁ u, exec .displayFrame t = .next t₁ ∧ t₁.active = true ∧ runSteps 1 t₁ = .next u ∧ u.active = false := by
    obtain ⟨rev, params, pstate, refresh, bg, duc2Acc, shadow, code, active, errInfo, result, pins, req, seq, polls, pend,
      ⟨script, loop⟩, host, trace⟩ := t
    dsimp only at h₂ h₄ h₅ h₆ h₇
    subst h₂ h₄ h₅ h₆ h₇
    exact ⟨_, _, rfl, rfl, rfl, rfl⟩
  obtain ⟨t₁, u, h₈, h₉, h₁₀, h₁₁⟩ := display
  exact ⟨s, t, t₁, u, plane 0#8, rfl, rfl, ⟨reset, nofun⟩, h₁, rfl, h₂, h₃, h₈, h₉, h₁₀, h₁₁⟩

theorem witness_UpdateAndDisplayCompletes :
    [Rev.v4, Rev.legacy].all (fun rev => (idle rev .ready []).active == false && (idle rev .ready []).pstate == .ready) = true
    ∧ (plane 0#8).length = 4000
    ∧ (idle .v4 .ready (oks 8103)).hearsIdle ((if RefreshMode.fullRefresh = .fullRefresh then 8090 else 4045)
        + if Rev.v4 = .v4 then 13 else 5) []
    ∧ ({ idle .legacy .ready (oks 4050) with refresh := .partialRefresh } : State).hearsIdle
        ((if RefreshMode.partialRefresh = .fullRefresh then 8090 else 4045) + if Rev.legacy = .v4 then 13 else 5) [] :=
  ⟨by decide, plane_length _, hears_idle _ _ _, hears _ _ _ (List.append_nil _).symm⟩

theorem witness_ClearFrameFillsBothBanks :
    ((idle .legacy .ready (oks 16180)).active = false ∧ (idle .legacy .ready (oks 16180)).pstate = .ready
      ∧ (idle .legacy .ready (oks 16180)).refresh = .fullRefresh ∧ (idle .legacy .ready (oks 16180)).hearsIdle 16180 [])
    ∧ (let s := { idle .v4 .ready (oks 8090) with refresh := .partialRefresh }
      s.active = false ∧ s.pstate = .ready ∧ s.refresh = .partialRefresh ∧ s.hearsIdle 8090 []) :=
  ⟨⟨rfl, rfl, rfl, hears_idle _ _ _⟩, rfl, rfl, rfl, hears _ _ _ (List.append_nil _).symm⟩

theorem witness_RegisterOperationsWriteOneRegister : (idle .v4 .sleeping []).active = false := rfl

/-- Each count of answers that the statement asks for, and a payload of one byte. -/
theorem witness_PlainCommandsSendTheirFrames :
    (busyWith (oks 10)).active = true ∧ (busyWith (oks 10)).pend = none ∧ (busyWith (oks 10)).hearsOk 10 []
    ∧ (busyWith (oks 8)).hearsOk 8 [] ∧ (busyWith (oks 4)).hearsOk 4 [] ∧ (busyWith (oks 9)).hearsOk 9 []
    ∧ [0x11#8] ≠ [] ∧ (busyWith (oks 8)).hearsOk (7 + [0x11#8].length) [] :=
  ⟨rfl, rfl, hearsOk_busy _, hearsOk_busy _, hearsOk_busy _, hearsOk_busy _, nofun, hearsOk_busy 8⟩

theorem witness_AddressCommandsWriteTheirShadows :
    (busyWith (oks 9)).active = true ∧ (busyWith (oks 9)).pend = none ∧ (busyWith (oks 9)).hearsOk 9 []
    ∧ (busyWith (oks 11)).hearsOk 11 [] ∧ (busyWith (oks 8)).hearsOk 8 [] :=
  ⟨rfl, rfl, hearsOk_busy _, hearsOk_busy _, hearsOk_busy _⟩

/-- For each of the four commands the last transaction that an error can cut. -/
theorem witness_CutFrameWritesNoShadow :
    [(Instr.cmdSetRamXWindow 0#8 1#8, 8), (.cmdSetRamYWindow 0#16 1#16, 10), (.cmdSetRamXCounter 0#8, 7),
      (.cmdSetRamYCounter 0#16, 8)].all (fun q : Instr × Nat =>
        let s := busyWith (oks q.2 ++ [.err 7])
        s.active && s.pend == none && s.env.script == oks q.2 ++ .err 7 :: [] && (oks q.2).all (· == .ok .low)
          && (oks q.2).length == q.2) = true := by decide

theorem witness_NoCommandOutsideAnOperation :
    (Instr.cmdWriteRamBw [0#8]).isBus = true ∧ (Instr.cmdWriteRamBw [0#8]).wellFormed = true
    ∧ (idle .v4 .ready []).active = false
    ∧ (Instr.cmdWriteRamBw []).wellFormed = false ∧ (Instr.cmdWriteRamRed []).wellFormed = false
    ∧ (Instr.cmdWriteLut []).isBus = true ∧ (Instr.cmdWriteLut []).wellFormed = false := by decide

/-- SLEEP, and UPDATE_PARTIAL_FRAME on V4, from Sleeping. -/
theorem witness_NotReadyIsInvalidState :
    (idle .v4 .sleeping []).active = false ∧ (idle .v4 .sleeping []).pstate ≠ .ready
    ∧ needsReady .v4 .sleep = true ∧ needsReady .v4 (.updatePartialFrame 0#16 0#16 0#16 0#16 []) = true
    ∧ (idle .v4 .sleeping []).rev = .v4
    ∧ (∀ x y w h a, Instr.sleep = .updatePartialFrame x y w h a → (idle .v4 .sleeping []).rev = .v4) :=
  ⟨rfl, nofun, rfl, rfl, rfl, fun _ _ _ _ _ _ => rfl⟩

/-- One case for each check: LEGACY; V4 asleep; x + w = 123; a valid rectangle that ends at x + w = 122 with a byte too
few. -/
theorem witness_PartialFrameChecksInOrder :
    (idle .legacy .ready []).active = false ∧ (idle .legacy .ready []).rev = .legacy
    ∧ (idle .v4 .sleeping []).rev = .v4 ∧ (idle .v4 .sleeping []).pstate ≠ .ready
    ∧ (idle .v4 .ready []).pstate = .ready
    ∧ ¬ (1 ≤ (8#16).toNat ∧ 1 ≤ (1#16).toNat ∧ (115#16).toNat + (8#16).toNat ≤ 122 ∧ (0#16).toNat + (1#16).toNat ≤ 250
      ∧ 8 ≤ (8#16).toNat * (1#16).toNat)
    ∧ (1 ≤ (8#16).toNat ∧ 1 ≤ (1#16).toNat ∧ (114#16).toNat + (8#16).toNat ≤ 122 ∧ (0#16).toNat + (1#16).toNat ≤ 250
      ∧ 8 ≤ (8#16).toNat * (1#16).toNat)
    ∧ ([] : List Byte).length ≠ (8#16).toNat * (1#16).toNat / 8 := by decide

/-- L1.4: 3999 and 4001 bytes. -/
theorem witness_WrongLengthIsInvalidBufferLength :
    (idle .v4 .ready []).active = false ∧ (idle .v4 .ready []).pstate = .ready
    ∧ (List.replicate 3999 0#8).length ≠ 4000 ∧ (List.replicate 4001 0#8).length ≠ 4000 := by
  refine ⟨rfl, rfl, ?_, ?_⟩ <;> rw [List.length_replicate] <;> decide

/-- For an operation that is accepted: WAIT_IDLE's only transaction, DISPLAY_FRAME's third, and INIT's last. -/
theorem witness_BusErrorIsPrecise :
    [(Instr.waitIdle, 0), (.displayFrame, 2), (.init, 89)].all (fun q : Instr × Nat =>
      let s := idle .v4 .ready (oks q.2 ++ [.err 0x5A])
      q.1.isBus == false && isRegisterOp q.1 == false && s.active == false && s.params.wf && preCheck q.1 s == none
        && s.env.script == oks q.2 ++ .err 0x5A :: []
        && (oks q.2).all (fun m => m == .ok .low && isBusy s.rev .low == false)
        && decide ((oks q.2).length < ((transactionsOf (sequenceOf q.1 s)).filter Transaction.isAsked).length)) = true := by
  decide +kernel

theorem witness_TransportErrorChangesNothingElse :
    let s := waiting { script := [.err 7], loop := [] }
    s.active = true ∧ s.pend = some .pinGet ∧ Transaction.pinGet.isAsked = true ∧ s.env.script = .err 7 :: [] :=
  ⟨rfl, rfl, rfl, rfl⟩

/-- An operation of each shape that passes its pre-checks. -/
theorem witness_TransactionCounts :
    params.wf = true
    ∧ [Instr.init, .sleep, .setLut .partialRefresh, .waitIdle, .displayFrame, .clearFrame, .getWidth,
      .updatePartialFrame 8#16 10#16 16#16 2#16 [0x11#8, 0x22#8, 0x33#8, 0x44#8]].all
        (fun i => preCheck i (idle .v4 .ready []) == none) = true
    ∧ preCheck (.updateFrame (plane 0#8)) (idle .v4 .ready []) = none
    ∧ preCheck (.updateColorFrame (plane 0#8) (plane 0#8)) (idle .v4 .ready []) = none
    ∧ isRegisterOp .getWidth = true := by decide +kernel

theorem witness_HostOperationFrame :
    ∃ t, Instr.waitIdle.isBus = false ∧ (idle .v4 .ready [.err 7]).noReset
      ∧ exec .waitIdle (idle .v4 .ready [.err 7]) = .next t := ⟨_, rfl, ⟨by decide, by decide⟩, rfl⟩

theorem witness_BusCommandFrame :
    ∃ t, Instr.cmdSwReset.isBus = true ∧ (busyWith (oks 4)).noReset ∧ exec .cmdSwReset (busyWith (oks 4)) = .next t
      ∧ t.active = true ∧ t.code ≠ .busError := ⟨_, rfl, ⟨by decide, by decide⟩, rfl, rfl, nofun⟩

/-- WAIT_IDLE waiting for its sample meets the invariant. -/
theorem waiting_inv (env : Env) : (waiting env).Inv :=
  ⟨nofun, fun _ => ⟨.waitIdle, [.startPoll], ⟨_, rfl, rfl⟩, rfl, ⟨Shadow.zero, 0#8, rfl, rfl⟩,
    .inl ⟨.pinGet, rfl, rfl, rfl⟩⟩, nofun,
    fun i _ h => by obtain ⟨r, h₁, h₂⟩ := h; cases h₁; cases h₂; exact nofun,
    show 0 < 2 ^ params.errInfoWidth by decide⟩

theorem witness_ResumedOperationFrame :
    let s := waiting { script := [.ok .low], loop := [] }
    ∃ t, s.Inv ∧ s.active = true ∧ s.inOperation .waitIdle ∧ s.noReset ∧ step s = .next t ∧ t.code ≠ .busError :=
  ⟨_, waiting_inv _, rfl, ⟨_, rfl, rfl⟩, ⟨by decide, by decide⟩, rfl, nofun⟩

theorem witness_StepKeepsTheInvariant :
    ∃ t, (waiting { script := [.ok .high], loop := [] }).Inv ∧ step (waiting { script := [.ok .high], loop := [] }) = .next t :=
  ⟨_, waiting_inv _, rfl⟩

theorem witness_StepKeepsTheInstance :
    ∃ t, step { idle .v4 .ready [] with host := [.request (encode .getWidth)] } = .next t := ⟨_, rfl⟩

/-- A host that presents a complete request, and one that presents an unassigned OP. -/
theorem witness_EveryStepGivesANextState :
    params.wf = true ∧ decodeRequest (encode .getWidth) = .ok (.getWidth, [])
    ∧ decodeRequest (word 0x24#8 0#8) = .error (.illegalOp 0x24#8) ∧ (word 0x24#8 0#8).length = 16 :=
  ⟨by decide, rfl, rfl, rfl⟩

theorem witness_CursorAtTheWindowOrigin :
    ∃ (s t : State) (a : List Byte), writesRam (.updateFrame a) = true ∧ s.active = false ∧ s.noReset
      ∧ preCheck (.updateFrame a) s = none ∧ exec (.updateFrame a) s = .next t ∧ t.active = false ∧ t.code = .ok := by
  let s := { idle .v4 .ready (oks 4045 ++ oks 0) with refresh := .partialRefresh }
  obtain ⟨t, h₁, h₂, h₃, -⟩ := updateFrame_ends s (oks 0) rfl rfl rfl (hears _ _ _ rfl)
  have reset : Move.reset ∉ s.env.script := by
    intro h
    obtain h | h := List.mem_append.mp h <;> exact Move.noConfusion (List.eq_of_mem_replicate h)
  exact ⟨s, t, plane 0#8, rfl, rfl, ⟨reset, nofun⟩, plane_checked s rfl, h₁, h₂, h₃⟩

/-- UPDATE_PARTIAL_FRAME of one byte, in Partial mode: the closing PinSet of its data frame is pending. -/
def closing : State :=
  { idle .v4 .ready [.ok .low] with
    active := true, req := some (requestOf (.updatePartialFrame 8#16 10#16 8#16 1#16 [0x5A#8])), refresh := .partialRefresh
    shadow := shadowOf (partialRect 8#16 10#16 8#16 1#16), pend := some (.pinSet .csN .high), seq := [.finish]
    polls := some 0 }

theorem closing_inv : closing.Inv :=
  ⟨nofun, fun _ => ⟨.updatePartialFrame 8#16 10#16 8#16 1#16 [0x5A#8],
    (ramWriteA (partialRect 8#16 10#16 8#16 1#16) [0x5A#8]).dropLast, ⟨_, rfl, rfl⟩, rfl, ⟨Shadow.zero, 0#8, rfl, rfl⟩,
    .inl ⟨.pinSet .csN .high, rfl, rfl, by decide⟩⟩, nofun, fun _ _ _ _ => rfl, show 0 < 2 ^ params.errInfoWidth by decide⟩

theorem witness_CursorAtTheWindowOrigin_resumed :
    ∃ t, closing.Inv ∧ closing.active = true ∧ closing.inOperation (.updatePartialFrame 8#16 10#16 8#16 1#16 [0x5A#8])
      ∧ writesRam (.updatePartialFrame 8#16 10#16 8#16 1#16 [0x5A#8]) = true
      ∧ step closing = .next t ∧ t.active = false ∧ t.code = .ok :=
  ⟨_, closing_inv, rfl, ⟨_, rfl, rfl⟩, rfl, rfl, rfl, rfl⟩

/-- WAIT_IDLE in the interval after its first busy sample meets the invariant. -/
theorem pausing_inv (script : List Move) : (pausing params 1 script).Inv :=
  ⟨nofun, fun _ => ⟨.waitIdle, [.startPoll], ⟨_, rfl, rfl⟩, rfl, ⟨Shadow.zero, 0#8, rfl, rfl⟩,
    .inr ⟨1, rfl, rfl, rfl, rfl, rfl⟩⟩, nofun,
    fun i _ h => by obtain ⟨r, h₁, h₂⟩ := h; cases h₁; cases h₂; exact nofun, show 0 < 2 ^ params.errInfoWidth by decide⟩

/-- A pending answer, and a poll interval. -/
theorem witness_ResumedOperationCompletes :
    (closing.Inv ∧ closing.active = true ∧ closing.inOperation (.updatePartialFrame 8#16 10#16 8#16 1#16 [0x5A#8])
      ∧ closing.pend = some (.pinSet .csN .high) ∧ closing.hearsIdle 1 [])
    ∧ (let s := pausing params 1 (oks 1);
      s.Inv ∧ s.active = true ∧ s.inOperation .waitIdle ∧ s.pend = some (.delay 5)
        ∧ s.hearsIdle ((.delay 5 :: transactionsOf s.seq).filter Transaction.isAsked).length []) :=
  ⟨⟨closing_inv, rfl, ⟨_, rfl, rfl⟩, rfl, hears _ 1 [] rfl⟩,
    ⟨pausing_inv _, rfl, ⟨_, rfl, rfl⟩, rfl, hears _ 1 [] rfl⟩⟩

/-- A LEGACY engine in DISPLAY_FRAME, waiting for the last answer of master activation, the poll still to come. -/
def activating (script : List Move) : State :=
  { idle .legacy .ready script with
    active := true, req := some (requestOf .displayFrame), pend := some (.pinSet .csN .high)
    seq := waitUntilIdle ++ [.finish] }

theorem activating_inv (script : List Move) : (activating script).Inv :=
  ⟨nofun, fun _ => ⟨.displayFrame, masterActivation.dropLast, ⟨_, rfl, rfl⟩, rfl, ⟨Shadow.zero, 0#8, rfl, rfl⟩,
    .inl ⟨.pinSet .csN .high, rfl, rfl, rfl⟩⟩, fun _ => ⟨rfl, rfl⟩, fun _ _ _ _ => rfl,
    show 0 < 2 ^ params.errInfoWidth by decide⟩

/-- For a later step: the sample right after a poll interval, and the poll's sample after the answer that the engine waited
for. -/
theorem witness_BusErrorIsPrecise_resumed :
    (let s := pausing params 1 [.err 7];
      s.env.script = [] ++ .err 7 :: [] ∧ s.Inv ∧ s.active = true ∧ s.inOperation .waitIdle ∧ s.pend = some (.delay 5)
        ∧ 0 < ((.delay 5 :: transactionsOf s.seq).filter Transaction.isAsked).length)
    ∧ (let s := activating [.ok .low, .err 7];
      s.env.script = [.ok .low] ++ .err 7 :: [] ∧ isBusy s.rev .low = false ∧ s.Inv ∧ s.active = true
        ∧ s.inOperation .displayFrame ∧ s.pend = some (.pinSet .csN .high)
        ∧ 1 < ((.pinSet .csN .high :: transactionsOf s.seq).filter Transaction.isAsked).length) :=
  ⟨⟨rfl, pausing_inv _, rfl, ⟨_, rfl, rfl⟩, rfl, by decide⟩,
    rfl, rfl, activating_inv _, rfl, ⟨_, rfl, rfl⟩, rfl, by decide⟩

/-- R131(a): an error to the sample after a poll interval is BUS_ERROR, not PANEL_TIMEOUT, at the deadline too. -/
theorem test_poll_errorAfterTheInterval :
    nextIs (step (pausing (limited 2) 1 [.err 7])) (fun t =>
      statusByte t == 0x01#8 && t.errInfo == 7
        && t.trace == evDelay 5 ++ [{ txn := .pinGet, answer := .err 7 }]) = true := by decide

/-- The first sample of INIT's second poll in the step that accepts it, with a deadline of 1 and without one; and DISPLAY_FRAME's
in a later step. -/
theorem witness_FirstBusySampleOfAPoll :
    ([params, limited 1].all (fun p =>
      let s := { idle .v4 .sleeping (oks 7 ++ [.ok .high]) with params := p }
      let done := (transactionsOf (sequenceOf .init s)).take 9
      s.env.script == oks 7 ++ .ok .high :: [] && (oks 7).all (fun m => m == .ok .low && isBusy s.rev .low == false)
        && (done.filter Transaction.isAsked).length == (oks 7).length && s.active == false && s.params.wf
        && preCheck .init s == none
        && transactionsOf (sequenceOf .init s) == done ++ .pinGet :: (transactionsOf (sequenceOf .init s)).drop 10) = true)
    ∧ (let s := activating [.ok .low, .ok .high];
      s.env.script = [.ok .low] ++ .ok .high :: [] ∧ isBusy s.rev .low = false
        ∧ ([Transaction.pinSet .csN .high].filter Transaction.isAsked).length = [Move.ok .low].length
        ∧ s.Inv ∧ s.active = true ∧ s.inOperation .displayFrame ∧ s.pend = some (.pinSet .csN .high)
        ∧ .pinSet .csN .high :: transactionsOf s.seq = [.pinSet .csN .high] ++ .pinGet :: []
        ∧ ∃ y ∈ [Transaction.pinSet .csN .high], y.isAsked = true) :=
  ⟨by decide +kernel, rfl, rfl, rfl, activating_inv _, rfl, ⟨_, rfl, rfl⟩, rfl, rfl,
    .pinSet .csN .high, List.mem_singleton.mpr rfl, rfl⟩

/-- R131(c), R24: with a deadline of 1 INIT's first sample busy is PANEL_TIMEOUT (STATUS 0x06) with PSTATE = Uninitialized. -/
theorem test_init_timesOutAtTheFirstSample :
    nextIs (exec .init { idle .v4 .ready [.ok .low, .ok .low, .ok .high] with params := limited 1 }) (fun t =>
      statusByte t == 0x06#8 && t.pstate == .uninitialized
        && t.trace == evPin .rstN .low ++ evDelay 10 ++ evPin .rstN .high ++ evDelay 20 ++ evSample .high) = true := by decide

/-- SET_LUT Partial with every ignored field set, and UPDATE_COLOR_FRAME with a byte in each stream, which ends at once. -/
theorem witness_RequestIsLatched :
    let lut := [0x03#8, 0xFF#8, 0x12#8, 0x34#8, 0x00#8, 0x01#8, 0x02#8, 0x03#8, 0x04#8, 0x05#8, 0x06#8, 0x07#8, 0x08#8, 0x09#8,
      0x0A#8, 0x0B#8] ++ []
    let color := [0x12#8, 0xFF#8, 0#8, 0#8, 1#8, 2#8, 3#8, 4#8, 5#8, 6#8, 7#8, 8#8, 1#8, 0#8, 1#8, 0#8] ++ [0xA1#8, 0xB1#8]
    (∃ t, decodeRequest lut = .ok (.setLut .partialRefresh, [])
      ∧ step { idle .v4 .ready [] with host := [.request lut] } = .next t ∧ t.active = true)
    ∧ (∃ t, decodeRequest color = .ok (.updateColorFrame [0xA1#8] [0xB1#8], [])
      ∧ step { idle .v4 .ready [] with host := [.request color] } = .next t ∧ t.active = false) :=
  ⟨⟨_, rfl, rfl, rfl⟩, _, rfl, rfl, rfl⟩

theorem witness_OperationsAreMadeOfTableCommands :
    Instr.sleep.isBus = false ∧ preCheck .sleep (idle .legacy .ready []) = none ∧ params.wf = true := by decide

theorem witness_CompositionDependsOnTheSetOnly :
    ∀ a, a ∈ [Duc2Action.disableClock, .enableClock] ↔ a ∈ [Duc2Action.enableClock, .disableClock, .enableClock] := by
  intro a
  cases a <;> decide

theorem witness_FullPanelWriteFillsTheBank : Observer.start.lost = false ∧ (plane 0x5A#8).length = 4000 :=
  ⟨rfl, plane_length _⟩

/-- A frame cut before its first byte, and one of 4000 bytes whose closing PinSet fails. -/
theorem witness_CutFrameDeliversItsAcceptedBytes :
    Observer.start.lost = false ∧ ([] : List Byte).length ≤ 4000 ∧ (plane 0x5A#8).length ≤ 4000 :=
  ⟨rfl, Nat.zero_le _, Nat.le_of_eq (plane_length _)⟩

/-- 95_test_vectors.md L1.5's start, with BG = 0x5A. -/
theorem witness_ClearFrameIsIdempotent :
    let s := { idle .v4 .ready (oks (16180 + 16180)) with bg := 0x5A#8 }
    s.active = false ∧ s.pstate = .ready ∧ 16180 = (if s.refresh = .fullRefresh then 16180 else 8090)
      ∧ s.hearsIdle (16180 + 16180) [] ∧ (observe s.trace).lost = false :=
  ⟨rfl, rfl, rfl, hears _ _ _ (List.append_nil _).symm, rfl⟩

theorem witness_ObserverForgetsAtReset :
    Observer.start.lost = false
    ∧ ∃ pulsed, pulsed = (evPin .rstN .low ++ evDelay 10 ++ evPin .rstN .high ++ evDelay 20).foldl Observer.see Observer.start :=
  ⟨rfl, _, rfl⟩

theorem witness_ObserverKeepsItsBanksInForm : 4000 ≤ 4000 := by decide

end Sys2Proof.Tests
end

section
/-! O49 (spec/00_scope.md R3, 30_encoding.md R101, 40_framer.md R147 and R150). Being made of table blocks is closed
under concatenation, so each body follows from its parts; the pre-checks and R11 give every RAM and LUT frame a byte. -/

namespace Sys2Proof.Machine

/-! The pre-checks that pass. -/

theorem firstFailed_eq_none : ∀ {checks : List (Option Status)},
    firstFailed checks = none ↔ ∀ c ∈ checks, c = none
  | [] => by simp [firstFailed]
  | none :: checks => by simp [firstFailed, firstFailed_eq_none]
  | some _ :: _ => by simp [firstFailed]

theorem checkLength_eq_none {buf : List Byte} {required : Nat} :
    checkLength buf required = none ↔ buf.length = required := by simp [checkLength]

/-- A valid partial rectangle needs at least one buffer byte (R272). -/
theorem one_le_bytes_of_checkGeometry {x y w h : Half} (hc : checkGeometry x y w h = none) :
    1 ≤ w.toNat * h.toNat / 8 := by
  have area : 8 ≤ w.toNat * h.toNat := by
    by_contra hn
    simp [checkGeometry, hn] at hc
  omega

/-! Payloads of at least one byte. -/

theorem payloadFits_of_length {bytes : List Byte} {n : Nat} (hl : bytes.length = n) (hn : 1 ≤ n) :
    payloadFits bytes = true := by simpa [payloadFits, hl] using hn

theorem one_le_planeSize : 1 ≤ planeSize := by decide

theorem payloadFits_of_plane {bytes : List Byte} (hl : checkLength bytes planeSize = none) :
    payloadFits bytes = true := payloadFits_of_length (checkLength_eq_none.mp hl) one_le_planeSize

theorem payloadFits_fill {n : Nat} (hn : 1 ≤ n) (s : State) : payloadFits (fill s n) = true :=
  payloadFits_of_length List.length_replicate hn

theorem payloadFits_chroma (rev : Rev) (bytes : List Byte) : payloadFits (chroma rev bytes) = payloadFits bytes := by
  cases rev <;> simp [payloadFits, chroma, profileOf]

theorem payloadFits_lutPayload {p : Params} (hp : p.wf = true) (m : RefreshMode) :
    payloadFits (lutPayload p m) = true :=
  payloadFits_of_length rfl (List.length_pos_iff.mpr (lutPayload_ne_nil hp m))

/-! The two commands that only V4 sends. -/

theorem rev_ne_legacy_of_usesDuc2 {rev : Rev} (h : (profileOf rev).usesDuc2 = true) : rev ≠ .legacy := by
  rintro rfl
  cases h

theorem rev_ne_legacy_of_supportsLut {rev : Rev} (h : (profileOf rev).supportsLut = true) : rev ≠ .legacy := by
  rintro rfl
  cases h

/-- The commands 0x22 and 0x32, which no operation emits on LEGACY (R147, R150). -/
def isV4Only : Instr → Bool
  | .cmdDisplayUpdateControl2 _ | .cmdWriteLut _ => true
  | _ => false

/-! Blocks. -/

/-- The blocks of O49: a well-formed bus command (on LEGACY neither 0x22 nor 0x32), a busy poll, the reset pulse, or one
item that issues nothing. -/
def TableBlock (s : State) (b : List Item) : Prop :=
  (∃ c, c.isBus = true ∧ c.wellFormed = true ∧ b = commandItems c
    ∧ (s.rev = .legacy → (∀ f, c ≠ .cmdDisplayUpdateControl2 f) ∧ (∀ d, c ≠ .cmdWriteLut d)))
  ∨ b = waitUntilIdle
  ∨ b = hardwareReset s.params.resetLowUs s.params.resetHighUs
  ∨ (∃ item, b = [item] ∧ ∀ t, item ≠ .issue t)

/-- The items are a concatenation of blocks. -/
def MadeOfTableBlocks (s : State) (items : List Item) : Prop :=
  ∃ blocks : List (List Item), items = blocks.flatten ∧ ∀ b ∈ blocks, TableBlock s b

namespace MadeOfTableBlocks

variable {s : State} {a b : List Item}

theorem nil : MadeOfTableBlocks s [] := ⟨[], rfl, by simp⟩

theorem append (ha : MadeOfTableBlocks s a) (hb : MadeOfTableBlocks s b) : MadeOfTableBlocks s (a ++ b) := by
  obtain ⟨as, rfl, has⟩ := ha
  obtain ⟨bs, rfl, hbs⟩ := hb
  exact ⟨as ++ bs, List.flatten_append.symm, List.forall_mem_append.mpr ⟨has, hbs⟩⟩

theorem block (hb : TableBlock s b) : MadeOfTableBlocks s b := ⟨[b], by simp, by simpa using hb⟩

theorem ite {p : Prop} [Decidable p] (ha : p → MadeOfTableBlocks s a) (hb : ¬p → MadeOfTableBlocks s b) :
    MadeOfTableBlocks s (if p then a else b) := by
  split
  · exact ha ‹_›
  · exact hb ‹_›

/-- A part that the sequence may leave out. -/
theorem optional {p : Prop} [Decidable p] (ha : p → MadeOfTableBlocks s a) :
    MadeOfTableBlocks s (if p then a else []) := ite ha fun _ => nil

theorem silent {items : List Item} (h : ∀ item ∈ items, ∀ t, item ≠ .issue t) : MadeOfTableBlocks s items := by
  induction items with
  | nil => exact nil
  | cons item rest ih =>
    obtain ⟨hi, hr⟩ := List.forall_mem_cons.mp h
    exact (block (.inr (.inr (.inr ⟨item, rfl, hi⟩)))).append (ih hr)

theorem finish : MadeOfTableBlocks s [.finish] := silent (by simp)

theorem poll : MadeOfTableBlocks s waitUntilIdle := block (.inr (.inl rfl))

theorem pulse : MadeOfTableBlocks s (hardwareReset s.params.resetLowUs s.params.resetHighUs) :=
  block (.inr (.inr (.inl rfl)))

/-- A command that both profiles have, or a V4 command on V4. -/
theorem command (c : Instr) (hb : c.isBus = true) (hw : c.wellFormed = true)
    (hl : s.rev = .legacy → isV4Only c = false) : MadeOfTableBlocks s (commandItems c) := by
  refine block (.inl ⟨c, hb, hw, rfl, fun hr => ⟨?_, ?_⟩⟩)
  · rintro f rfl
    cases hl hr
  · rintro d rfl
    cases hl hr

/-! RAM writes. -/

theorem setRamArea (r : Rect) : MadeOfTableBlocks s (setRamArea r) :=
  (command (.cmdSetRamXWindow _ _) rfl rfl fun _ => rfl).append (command (.cmdSetRamYWindow _ _) rfl rfl fun _ => rfl)

theorem setRamAddressCounters (x y : Nat) : MadeOfTableBlocks s (setRamAddressCounters x y) :=
  poll.append (command (.cmdSetRamXCounter _) rfl rfl fun _ => rfl)
    |>.append (command (.cmdSetRamYCounter _) rfl rfl fun _ => rfl)

theorem openWindow (r : Rect) : MadeOfTableBlocks s (openWindow r) :=
  (setRamArea r).append (setRamAddressCounters r.startX r.startY)

theorem ramWriteA (r : Rect) {bytes : List Byte} (h : payloadFits bytes = true) :
    MadeOfTableBlocks s (ramWriteA r bytes) :=
  (openWindow r).append (command (.cmdWriteRamBw bytes) rfl h fun _ => rfl)

theorem ramWriteC (r : Rect) {bytes : List Byte} (h : payloadFits bytes = true) :
    MadeOfTableBlocks s (ramWriteC r bytes) :=
  (openWindow r).append (command (.cmdWriteRamRed bytes) rfl h fun _ => rfl)

/-! The bodies of the operations. -/

theorem updateFrameBody {bufA : List Byte} (h : payloadFits bufA = true) :
    MadeOfTableBlocks s (updateFrameBody bufA s) :=
  (ramWriteA fullPanel h).append (optional fun _ => ramWriteC fullPanel (payloadFits_fill one_le_planeSize s))

theorem updatePartialBody (x y w h : Half) {bufA : List Byte} (ha : payloadFits bufA = true) :
    MadeOfTableBlocks s (updatePartialBody x y w h bufA s) :=
  (ramWriteA _ ha).append (optional fun _ => ramWriteC _ (payloadFits_fill (of_decide_eq_true ha) s))

theorem updateColorBody {bufA bufB : List Byte} (ha : payloadFits bufA = true) (hb : payloadFits bufB = true) :
    MadeOfTableBlocks s (updateColorBody bufA bufB s) :=
  (ramWriteA fullPanel ha).append (ramWriteC fullPanel ((payloadFits_chroma s.rev bufB).trans hb))

theorem displayUpdateControl2 (flags : Byte) (h : (profileOf s.rev).usesDuc2 = true) :
    MadeOfTableBlocks s (displayUpdateControl2 flags) :=
  command (.cmdDisplayUpdateControl2 flags) rfl rfl fun hr => absurd hr (rev_ne_legacy_of_usesDuc2 h)

theorem masterActivation : MadeOfTableBlocks s masterActivation := command .cmdMasterActivation rfl rfl fun _ => rfl

theorem displayBody : MadeOfTableBlocks s (displayBody s) :=
  optional (fun h => (silent (by simp)).append (displayUpdateControl2 _ h)) |>.append masterActivation |>.append poll

theorem clearPass : MadeOfTableBlocks s (clearPass s) :=
  (ramWriteA fullPanel (payloadFits_fill one_le_planeSize s)).append
    (ramWriteC fullPanel (payloadFits_fill one_le_planeSize s))

theorem clearBody : MadeOfTableBlocks s (clearBody s) := clearPass.append (optional fun _ => clearPass)

theorem initBody : MadeOfTableBlocks s (initBody s) :=
  pulse.append poll
    |>.append (command .cmdSwReset rfl rfl fun _ => rfl)
    |>.append poll
    |>.append (command (.cmdDriverOutputControl _ _ _ _) rfl rfl fun _ => rfl)
    |>.append (command (.cmdDataEntryMode _ _) rfl rfl fun _ => rfl)
    |>.append (setRamArea fullPanel)
    |>.append (setRamAddressCounters 0 0)
    |>.append (command (.cmdBorderWaveform _) rfl rfl fun _ => rfl)
    |>.append (command .cmdTemperatureSensor rfl rfl fun _ => rfl)
    |>.append (optional fun _ => command .cmdDisplayUpdateControl1 rfl rfl fun _ => rfl)
    |>.append poll
    |>.append (silent (by simp))

theorem sleepActivation : MadeOfTableBlocks s (sleepActivation s) :=
  optional fun h => (silent (by simp)).append (displayUpdateControl2 _ h) |>.append masterActivation

theorem sleepBody : MadeOfTableBlocks s (sleepBody s) :=
  poll.append sleepActivation
    |>.append (command (.cmdDeepSleepMode _) rfl rfl fun _ => rfl)
    |>.append (silent (by simp))

theorem setLutBody (mode : RefreshMode) (hp : s.params.wf = true) (hl : (profileOf s.rev).supportsLut = true) :
    MadeOfTableBlocks s (setLutBody mode s) :=
  (command (.cmdWriteLut _) rfl (payloadFits_lutPayload hp mode)
      fun hr => absurd hr (rev_ne_legacy_of_supportsLut hl)).append
    (silent (by simp))

end MadeOfTableBlocks

/-! The operations. -/

theorem payloadFits_of_fullFrameChecks {a : List Byte} {s : State}
    (hc : firstFailed [checkReady s, checkLength a planeSize] = none) : payloadFits a = true :=
  payloadFits_of_plane (firstFailed_eq_none.mp hc _ (by simp))

/-- The sequence of a host operation, from its body's blocks. -/
theorem madeOfTableBlocks_sequenceOf {i : Instr} {s : State} (hb : i.isBus = false) (hc : preCheck i s = none)
    (hp : s.params.wf = true) : MadeOfTableBlocks s (sequenceOf i s) := by
  cases i with
  | init => exact .initBody
  | sleep => exact .sleepBody
  | setLut mode => exact .ite (.setLutBody mode hp) fun _ => .finish
  | waitIdle => exact .append .poll .finish
  | updateFrame a => exact .append (.updateFrameBody (payloadFits_of_fullFrameChecks hc)) .finish
  | updatePartialFrame x y w h a =>
    have passed := firstFailed_eq_none.mp hc
    have geometry : checkGeometry x y w h = none := passed _ (by simp)
    have length : checkLength a (w.toNat * h.toNat / 8) = none := passed _ (by simp)
    have fits := payloadFits_of_length (checkLength_eq_none.mp length) (one_le_bytes_of_checkGeometry geometry)
    exact .append (.updatePartialBody x y w h fits) .finish
  | updateColorFrame a b =>
    have passed := firstFailed_eq_none.mp hc
    have fitsA : payloadFits a = true := payloadFits_of_plane (passed _ (by simp))
    have fitsB : payloadFits b = true := payloadFits_of_plane (passed _ (by simp))
    exact .append (.updateColorBody fitsA fitsB) .finish
  | updateAchromaticFrame a => exact .append (.ramWriteA fullPanel (payloadFits_of_fullFrameChecks hc)) .finish
  | updateChromaticFrame a =>
    have fits := (payloadFits_chroma s.rev a).trans (payloadFits_of_fullFrameChecks hc)
    exact .append (.ramWriteC fullPanel fits) .finish
  | displayFrame => exact .append .displayBody .finish
  | updateAndDisplayFrame a =>
    exact .append (.append (.updateFrameBody (payloadFits_of_fullFrameChecks hc)) .displayBody) .finish
  | clearFrame => exact .append .clearBody .finish
  | setBackgroundColor _ => exact .nil
  | getBackgroundColor => exact .nil
  | getWidth => exact .nil
  | getHeight => exact .nil
  | _ => cases hb

/-- Settles O49, by the blocks of each operation's body. -/
theorem operationsAreMadeOfTableCommands : Obligations.OperationsAreMadeOfTableCommands :=
  fun _ _ hb hc hp => madeOfTableBlocks_sequenceOf hb hc hp

end Sys2Proof.Machine
end

section
/-! What a step keeps and what a sequence writes (spec/10_state.md): the facts from which the invariant, the frames and
the constancy of strap and parameters are read. The first two parts hold whatever the transport answers, an engine reset too. -/

namespace Sys2Proof.Machine

/-! Strap, parameters, the host's moves and the trace. -/

/-- The same engine: its strap and parameters, the same moves of the host to come, and a trace that has only grown. -/
structure SameInstance (s t : State) : Prop where
  rev : t.rev = s.rev
  params : t.params = s.params
  host : t.host = s.host
  trace : s.trace <+: t.trace

theorem SameInstance.refl (s : State) : SameInstance s s := ⟨rfl, rfl, rfl, List.prefix_rfl⟩

theorem SameInstance.trans {s t u : State} (h₁ : SameInstance s t) (h₂ : SameInstance t u) : SameInstance s u :=
  ⟨h₂.rev.trans h₁.rev, h₂.params.trans h₁.params, h₂.host.trans h₁.host, h₁.trace.trans h₂.trace⟩

theorem sameInstance_raise (s : State) (code : Status) (info : Nat) : SameInstance s (s.raise code info) :=
  ⟨rfl, rfl, rfl, List.prefix_rfl⟩

theorem sameInstance_latchDescriptor (s : State) (bytes : List Byte) : SameInstance s (s.latchDescriptor bytes) :=
  ⟨by simp, by simp, by simp, by simp⟩

theorem sameInstance_perform (item : Item) (rest : List Item) (s : State) :
    SameInstance s (perform item rest s).state := by
  cases item with
  | issue t =>
    have hs := settle_settled t rest s
    simp only [perform]
    generalize settle t rest s = turn at hs
    cases hs with
    | went => exact ⟨rfl, rfl, rfl, List.prefix_append _ _⟩
    | waits => exact ⟨rfl, rfl, rfl, List.prefix_rfl⟩
    | busy => exact ⟨rfl, rfl, rfl, List.prefix_append _ _⟩
    | failed => exact ⟨rfl, rfl, rfl, List.prefix_append _ _⟩
    | cut => exact ⟨rfl, rfl, rfl, List.prefix_append _ _⟩
  | startPoll | latch _ | compose _ | setPower _ | setRefresh _ | finish => exact ⟨rfl, rfl, rfl, List.prefix_rfl⟩

theorem sameInstance_run (items : List Item) (s : State) : SameInstance s (run items s).state :=
  run_invariant (SameInstance s) (fun item _ rest u hu => hu.trans (sameInstance_perform item rest u)) s (.refl s)

theorem step_of_active {s : State} (ha : s.active = true) : step s = .next (resume s) := if_pos ha

theorem step_of_idle {s : State} (ha : s.active = false) : step s = hostTurn s := if_neg (by simp [ha])

/-- Going on with an operation that waits is issuing the pending transaction again and then what is left. -/
theorem resume_of_pend {s : State} {x : Transaction} (h : s.pend = some x) :
    resume s = (run (.issue x :: s.seq) { s with seq := [] }).state :=
  congrArg Turn.state (proceed_of_pend (s := { s with seq := [] }) h s.seq)

theorem resume_of_none {s : State} (h : s.pend = none) : resume s = (run s.seq { s with seq := [] }).state :=
  congrArg Turn.state (proceed_of_none (s := { s with seq := [] }) h s.seq)

theorem sameInstance_resume (s : State) : SameInstance s (resume s) := by
  have start : SameInstance s { s with seq := [] } := ⟨rfl, rfl, rfl, List.prefix_rfl⟩
  cases hp : s.pend with
  | none => exact resume_of_none hp ▸ start.trans (sameInstance_run _ _)
  | some x => exact resume_of_pend hp ▸ start.trans (sameInstance_run _ _)

/-! ERR_INFO's width, and the registers that only V4 writes. -/

theorem errInfoAfter_lt {p : Params} {code : Status} {info old : Nat} (h : old < 2 ^ p.errInfoWidth) :
    errInfoAfter p code info old < 2 ^ p.errInfoWidth := by
  unfold errInfoAfter
  split
  · exact Nat.mod_lt _ (Nat.two_pow_pos _)
  · exact h

theorem errInfoFits_raise {s : State} (h : s.errInfoFits) (code : Status) (info : Nat) : (s.raise code info).errInfoFits :=
  errInfoAfter_lt h

theorem errInfoFits_engineReset (s : State) : s.engineReset.errInfoFits := Nat.two_pow_pos _

theorem legacyRegisters_engineReset (s : State) : s.engineReset.legacyRegisters := fun _ => ⟨rfl, rfl⟩

theorem errInfoFits_perform {item : Item} {rest : List Item} {s : State} (h : s.errInfoFits) :
    (perform item rest s).state.errInfoFits := by
  cases item with
  | issue t =>
    have hs := settle_settled t rest s
    simp only [perform]
    generalize settle t rest s = turn at hs
    cases hs with
    | failed => exact errInfoFits_raise h _ _
    | cut => exact errInfoFits_engineReset _
    | went | waits | busy => exact h
  | startPoll | latch _ | compose _ | setPower _ | setRefresh _ | finish => exact h

theorem errInfoFits_run {items : List Item} {s : State} (h : s.errInfoFits) : (run items s).state.errInfoFits :=
  run_invariant State.errInfoFits (fun _ _ _ _ => errInfoFits_perform) s h

/-- Only a write of REFRESH or DUC2_ACC, on V4, leaves what a LEGACY engine has there. -/
theorem legacyRegisters_perform {item : Item} {rest : List Item} {s : State} (h : s.legacyRegisters)
    (hm : s.rev = .legacy → ∀ m, item ≠ .setRefresh m) (hv : s.rev = .legacy → ∀ v, item ≠ .compose v) :
    (perform item rest s).state.legacyRegisters := by
  cases item with
  | issue t =>
    have hs := settle_settled t rest s
    simp only [perform]
    generalize settle t rest s = turn at hs
    cases hs with
    | cut => exact legacyRegisters_engineReset _
    | went | waits | busy | failed => exact h
  | setRefresh m => exact fun hr => absurd rfl (hm hr m)
  | compose v => exact fun hr => absurd rfl (hv hr v)
  | startPoll | latch _ | setPower _ | finish => exact h

theorem legacyRegisters_run {items : List Item} {s : State} (h : s.legacyRegisters)
    (hm : s.rev = .legacy → ∀ m, .setRefresh m ∉ items) (hv : s.rev = .legacy → ∀ v, .compose v ∉ items) :
    (run items s).state.legacyRegisters := by
  have both := run_invariant (fun u => u.rev = s.rev ∧ u.legacyRegisters) (items := items) ?_ s ⟨rfl, h⟩
  · exact both.2
  intro item hi rest u ⟨hr, hu⟩
  refine ⟨(sameInstance_perform item rest u).rev.trans hr, legacyRegisters_perform hu ?_ ?_⟩
  · rintro hl m rfl
    exact hm (hr ▸ hl) m hi
  · rintro hl v rfl
    exact hv (hr ▸ hl) v hi

/-! The register writes of a sequence. -/

/-- A write of PSTATE, REFRESH, DUC2_ACC or a shadow register. -/
def Item.isWrite : Item → Bool
  | .latch _ | .compose _ | .setPower _ | .setRefresh _ => true
  | .issue _ | .startPoll | .finish => false

/-- The register writes of a sequence, in order. -/
def writesOf (items : List Item) : List Item := items.filter Item.isWrite

theorem mem_writesOf {items : List Item} {w : Item} (h : w ∈ items) (hw : w.isWrite = true) : w ∈ writesOf items :=
  List.mem_filter.mpr ⟨h, hw⟩

@[simp] theorem writesOf_nil : writesOf [] = [] := rfl
@[simp] theorem writesOf_issue (t : Transaction) (a : List Item) : writesOf (.issue t :: a) = writesOf a := rfl
@[simp] theorem writesOf_startPoll (a : List Item) : writesOf (.startPoll :: a) = writesOf a := rfl
@[simp] theorem writesOf_finish (a : List Item) : writesOf (.finish :: a) = writesOf a := rfl
@[simp] theorem writesOf_latch (w : ShadowWrite) (a : List Item) :
    writesOf (.latch w :: a) = .latch w :: writesOf a := rfl
@[simp] theorem writesOf_compose (v : Byte) (a : List Item) :
    writesOf (.compose v :: a) = .compose v :: writesOf a := rfl
@[simp] theorem writesOf_setPower (p : PowerState) (a : List Item) :
    writesOf (.setPower p :: a) = .setPower p :: writesOf a := rfl
@[simp] theorem writesOf_setRefresh (m : RefreshMode) (a : List Item) :
    writesOf (.setRefresh m :: a) = .setRefresh m :: writesOf a := rfl
@[simp] theorem writesOf_append (a b : List Item) : writesOf (a ++ b) = writesOf a ++ writesOf b := List.filter_append ..

@[simp] theorem writesOf_frame (dcl : Level) (bytes : List Byte) : writesOf (frame dcl bytes) = [] := by
  refine List.filter_eq_nil_iff.mpr fun item h => ?_
  obtain rfl | ⟨t, rfl⟩ := frame_issuesOnly dcl bytes item h <;> exact Bool.false_ne_true

@[simp] theorem writesOf_sendCommand (op : Byte) : writesOf (sendCommand op) = [] := writesOf_frame _ _
@[simp] theorem writesOf_sendCommandWithData (op : Byte) (bytes : List Byte) :
    writesOf (sendCommandWithData op bytes) = [] := by simp [sendCommandWithData, sendData]
@[simp] theorem writesOf_waitUntilIdle : writesOf waitUntilIdle = [] := rfl
@[simp] theorem writesOf_hardwareReset (lowUs highUs : Nat) : writesOf (hardwareReset lowUs highUs) = [] := rfl

/-- The shadow writes that come before the data of every RAM write (spec/42_ram_addressing.md R180 to R182). -/
def windowWrites (r : Rect) : List Item :=
  [.latch (.windowX (xUnits r.startX) (xUnits r.endX)),
    .latch (.windowY (BitVec.ofNat 16 r.startY) (BitVec.ofNat 16 r.endY)),
    .latch (.counterX (xUnits r.startX)), .latch (.counterY (BitVec.ofNat 16 r.startY))]

@[simp] theorem writesOf_setRamArea (r : Rect) :
    writesOf (setRamArea r) = [.latch (.windowX (xUnits r.startX) (xUnits r.endX)),
      .latch (.windowY (BitVec.ofNat 16 r.startY) (BitVec.ofNat 16 r.endY))] := by
  simp [setRamArea, setRamXWindow, setRamYWindow]
@[simp] theorem writesOf_setRamAddressCounters (x y : Nat) :
    writesOf (setRamAddressCounters x y) = [.latch (.counterX (xUnits x)), .latch (.counterY (BitVec.ofNat 16 y))] := by
  simp [setRamAddressCounters, setRamXCounter, setRamYCounter]
@[simp] theorem writesOf_openWindow (r : Rect) : writesOf (openWindow r) = windowWrites r := by
  simp [openWindow, windowWrites]
@[simp] theorem writesOf_ramWriteA (r : Rect) (bytes : List Byte) : writesOf (ramWriteA r bytes) = windowWrites r := by
  simp [ramWriteA, writeRamBw]
@[simp] theorem writesOf_ramWriteC (r : Rect) (bytes : List Byte) : writesOf (ramWriteC r bytes) = windowWrites r := by
  simp [ramWriteC, writeRamRed]

/-- The registers that an operation's sequence writes, in order ("State written" of 43_lifecycle.md and 44_frame_ops.md); a
bus command has none here. -/
def operationWrites (i : Instr) (s : State) : List Item :=
  match i with
  | .init => windowWrites fullPanel ++ [.setPower .ready]
  | .sleep =>
    (if (profileOf s.rev).usesDuc2 then [.compose (composeDuc2 s.params sleepActions)] else []) ++ [.setPower .sleeping]
  | .setLut mode => if (profileOf s.rev).supportsLut then [.setRefresh mode] else []
  | .updateFrame _ =>
    windowWrites fullPanel ++ (if s.refresh = .fullRefresh then windowWrites fullPanel else [])
  | .updatePartialFrame x y w h _ =>
    windowWrites (partialRect x y w h) ++ (if s.refresh = .fullRefresh then windowWrites (partialRect x y w h) else [])
  | .updateColorFrame _ _ => windowWrites fullPanel ++ windowWrites fullPanel
  | .updateAchromaticFrame _ | .updateChromaticFrame _ => windowWrites fullPanel
  | .displayFrame => if (profileOf s.rev).usesDuc2 then [.compose (composeDuc2 s.params displayActions)] else []
  | .updateAndDisplayFrame _ =>
    windowWrites fullPanel ++ (if s.refresh = .fullRefresh then windowWrites fullPanel else [])
      ++ (if (profileOf s.rev).usesDuc2 then [.compose (composeDuc2 s.params displayActions)] else [])
  | .clearFrame =>
    windowWrites fullPanel ++ windowWrites fullPanel
      ++ (if s.refresh = .fullRefresh then windowWrites fullPanel ++ windowWrites fullPanel else [])
  | _ => []

theorem writesOf_sequenceOf {i : Instr} (hb : i.isBus = false) (s : State) :
    writesOf (sequenceOf i s) = operationWrites i s := by
  cases i with
  | init =>
    simp [sequenceOf, initBody, swReset, driverOutputControl, dataEntryMode, borderControl, temperatureSensor,
      displayUpdateControl1, apply_ite writesOf, operationWrites, windowWrites, fullPanel]
  | sleep =>
    simp [sequenceOf, sleepBody, sleepActivation, displayUpdateControl2, masterActivation, deepSleepMode,
      operationWrites, apply_ite writesOf]
  | setLut mode => simp [sequenceOf, setLutBody, writeLut, operationWrites, apply_ite writesOf]
  | updateFrame a => simp [sequenceOf, updateFrameBody, operationWrites, apply_ite writesOf]
  | updatePartialFrame x y w h a => simp [sequenceOf, updatePartialBody, operationWrites, apply_ite writesOf]
  | updateColorFrame a b => simp [sequenceOf, updateColorBody, operationWrites]
  | displayFrame =>
    simp [sequenceOf, displayBody, displayUpdateControl2, masterActivation, operationWrites, apply_ite writesOf]
  | updateAndDisplayFrame a =>
    simp [sequenceOf, updateFrameBody, displayBody, displayUpdateControl2, masterActivation, operationWrites,
      apply_ite writesOf]
  | clearFrame => simp [sequenceOf, clearBody, clearPass, operationWrites, apply_ite writesOf]
  | waitIdle | updateAchromaticFrame _ | updateChromaticFrame _ | setBackgroundColor _ | getBackgroundColor | getWidth
  | getHeight => simp [sequenceOf, operationWrites]
  | _ => cases hb

theorem mem_operationWrites {i : Instr} (hb : i.isBus = false) {s : State} {w : Item} (h : w ∈ sequenceOf i s)
    (hw : w.isWrite = true) : w ∈ operationWrites i s :=
  writesOf_sequenceOf hb s ▸ mem_writesOf h hw

theorem setPower_notMem_sequenceOf {i : Instr} (hb : i.isBus = false) (hi : i ≠ .init) (hs : i ≠ .sleep) (s : State)
    (p : PowerState) : .setPower p ∉ sequenceOf i s := by
  intro h
  have hw := mem_operationWrites hb h rfl
  cases i <;> simp_all [operationWrites, windowWrites]

theorem setRefresh_notMem_sequenceOf {i : Instr} (hb : i.isBus = false) {s : State}
    (hi : (∀ m, i ≠ .setLut m) ∨ (profileOf s.rev).supportsLut = false) (m : RefreshMode) :
    .setRefresh m ∉ sequenceOf i s := by
  intro h
  have hw := mem_operationWrites hb h rfl
  cases i <;> simp_all [operationWrites, windowWrites]

theorem compose_notMem_sequenceOf {i : Instr} (hb : i.isBus = false) {s : State}
    (hi : (i ≠ .sleep ∧ i ≠ .displayFrame ∧ ∀ a, i ≠ .updateAndDisplayFrame a) ∨ (profileOf s.rev).usesDuc2 = false)
    (v : Byte) : .compose v ∉ sequenceOf i s := by
  intro h
  have hw := mem_operationWrites hb h rfl
  cases i <;> simp_all [operationWrites, windowWrites]

theorem latch_notMem_sequenceOf {i : Instr} (hb : i.isBus = false) (hi : i ≠ .init) (hr : writesRam i = false) (s : State)
    (w : ShadowWrite) : .latch w ∉ sequenceOf i s := by
  intro h
  have hw := mem_operationWrites hb h rfl
  cases i <;> simp_all [operationWrites, writesRam]

/-- PSTATE and REFRESH are written after the last transaction only (spec/43_lifecycle.md R190, R194, R196). -/
def ModesLast (items : List Item) : Prop :=
  ∃ body last, items = body ++ last
    ∧ (∀ t, .issue t ∉ last) ∧ (∀ p, .setPower p ∉ body) ∧ ∀ m, .setRefresh m ∉ body

theorem ModesLast.before_issue {items pre post : List Item} {y : Transaction} (h : ModesLast items)
    (he : items = pre ++ .issue y :: post) : (∀ p, .setPower p ∉ pre) ∧ ∀ m, .setRefresh m ∉ pre := by
  obtain ⟨body, last, rfl, hlast, hpower, hrefresh⟩ := h
  obtain ⟨mid, -, rfl⟩ | ⟨mid, rfl, -⟩ := List.append_eq_append_iff.mp he
  · exact absurd (by simp) (hlast y)
  · simp only [List.mem_append, not_or] at hpower hrefresh
    exact ⟨fun p => (hpower p).1, fun m => (hrefresh m).1⟩

/-- A sequence that ends with one write and the completion, when its other writes are no writes of PSTATE or REFRESH. -/
theorem modesLast_of_writes {body ws : List Item} {w : Item} (hw : w.isWrite = true)
    (he : writesOf (body ++ [w, .finish]) = ws ++ [w]) (hp : ∀ p, .setPower p ∉ ws) (hm : ∀ m, .setRefresh m ∉ ws) :
    ModesLast (body ++ [w, .finish]) := by
  have last : writesOf [w, .finish] = [w] := List.filter_cons_of_pos hw
  obtain rfl : writesOf body = ws := by simpa [last] using he
  refine ⟨body, [w, .finish], rfl, fun t ht => ?_, fun p h => hp p (mem_writesOf h rfl),
    fun m h => hm m (mem_writesOf h rfl)⟩
  obtain rfl : .issue t = w := by simpa using ht
  cases hw

theorem modesLast_sequenceOf {i : Instr} (hb : i.isBus = false) (hr : isRegisterOp i = false) (s : State) :
    ModesLast (sequenceOf i s) := by
  have hw := writesOf_sequenceOf hb s
  obtain ⟨body, he⟩ := sequence_finishes hb hr s
  have plain : (∀ p, .setPower p ∉ sequenceOf i s) → (∀ m, .setRefresh m ∉ sequenceOf i s) →
      ModesLast (sequenceOf i s) :=
    fun hp hm => ⟨body, [.finish], he, by simp, fun p h => hp p (he ▸ List.mem_append_left _ h),
      fun m h => hm m (he ▸ List.mem_append_left _ h)⟩
  cases i with
  | init => exact modesLast_of_writes rfl hw (by simp [windowWrites]) (by simp [windowWrites])
  | sleep => exact modesLast_of_writes rfl hw (by simp) (by simp)
  | setLut m =>
    cases hl : (profileOf s.rev).supportsLut with
    | false =>
      exact plain (setPower_notMem_sequenceOf hb nofun nofun s) (setRefresh_notMem_sequenceOf hb (.inr hl))
    | true =>
      simp only [sequenceOf, operationWrites, hl, if_true] at hw ⊢
      exact modesLast_of_writes (ws := []) rfl hw (by simp) (by simp)
  | _ => exact plain (setPower_notMem_sequenceOf hb nofun nofun s) (setRefresh_notMem_sequenceOf hb (.inl nofun))

/-! What exec answers for a host operation. -/

theorem startOperation_of_exec {i : Instr} (hb : i.isBus = false) (hr : isRegisterOp i = false) {s t : State}
    (h : exec i s = .next t) : startOperation i (preCheck i s) (sequenceOf i s) s = .next t := by
  cases i with
  | setLut m =>
    simp only [exec, execSetLut] at h
    simp only [preCheck, sequenceOf]
    cases hl : (profileOf s.rev).supportsLut with
    | false => simpa [hl] using h
    | true =>
      simp only [hl, if_true] at h ⊢
      split at h
      · cases h
      · exact h
  | _ => exact exec_operation hb hr nofun ▸ h

/-- A host operation at the idle engine fails a pre-check, or runs its sequence. -/
theorem exec_cases {i : Instr} (hb : i.isBus = false) (hr : isRegisterOp i = false) {s t : State} (ha : s.active = false)
    (h : exec i s = .next t) :
    (∃ code, preCheck i s = some code ∧ t = (s.accept i).raise code 0)
      ∨ (preCheck i s = none ∧ t = (run (sequenceOf i s) (s.accept i)).state) := by
  have hs := startOperation_of_exec hb hr h
  simp only [startOperation, ha, Bool.false_eq_true, if_false] at hs
  cases hc : preCheck i s with
  | some code =>
    rw [hc] at hs
    cases hs
    exact .inl ⟨code, rfl, rfl⟩
  | none =>
    rw [hc] at hs
    cases hs
    exact .inr ⟨rfl, rfl⟩

/-- While ACTIVE = 1 a host operation is not accepted (spec/60_exceptions.md R266). -/
theorem exec_of_active {i : Instr} (hb : i.isBus = false) {s t : State} (ha : s.active = true)
    (h : exec i s = .next t) : t = s := by
  cases hr : isRegisterOp i with
  | true =>
    obtain ⟨write, hw, -⟩ := exec_register hr s
    rw [hw, registerOperation, if_pos ha] at h
    cases h
    rfl
  | false =>
    have hs := startOperation_of_exec hb hr h
    simp only [startOperation, ha, if_true] at hs
    cases hs
    rfl

/-- A register operation has completed: nothing is held of it, and only BG, RESULT and STATUS may have changed
(45_register_ops.md). -/
structure RegisterOpDone (s t : State) : Prop extends SameInstance s t where
  active : t.active = false
  empty : t.req = none ∧ t.seq = [] ∧ t.polls = none ∧ t.pend = none
  pstate : t.pstate = s.pstate
  refresh : t.refresh = s.refresh
  duc2Acc : t.duc2Acc = s.duc2Acc
  shadow : t.shadow = s.shadow
  errInfo : t.errInfo = s.errInfo

theorem registerOpDone_exec {i : Instr} (hr : isRegisterOp i = true) {s t : State} (ha : s.active = false)
    (h : exec i s = .next t) : RegisterOpDone s t := by
  obtain ⟨write, hw, hkept⟩ := exec_register hr s
  simp only [hw, registerOperation, ha, Bool.false_eq_true, if_false] at h
  cases h
  obtain ⟨hrev, hparams, hhost, -, htrace, -, hpstate, hrefresh, hduc, hshadow, herr⟩ := hkept (s.accept i)
  exact ⟨⟨hrev, hparams, hhost, by simp [htrace]⟩, rfl, ⟨rfl, rfl, rfl, rfl⟩, hpstate, hrefresh, hduc, hshadow, herr⟩

theorem sameInstance_exec {i : Instr} (hb : i.isBus = false) {s t : State} (h : exec i s = .next t) :
    SameInstance s t := by
  cases ha : s.active with
  | true => exact exec_of_active hb ha h ▸ .refl s
  | false =>
    have accepted : SameInstance s (s.accept i) := ⟨rfl, rfl, rfl, List.prefix_rfl⟩
    cases hr : isRegisterOp i with
    | true => exact (registerOpDone_exec hr ha h).toSameInstance
    | false =>
      obtain ⟨code, -, rfl⟩ | ⟨-, rfl⟩ := exec_cases hb hr ha h
      · exact accepted.trans (sameInstance_raise _ _ _)
      · exact accepted.trans (sameInstance_run _ _)

/-! The host's request port. -/

theorem execRequest_next {i : Instr} {bytes : List Byte} {s t : State} (h : execRequest i bytes s = .next t) :
    ∃ t', exec i s = .next t' ∧ t = t'.latchDescriptor bytes := by
  unfold execRequest at h
  split at h
  case h_1 t' hx => cases h; exact ⟨t', hx, rfl⟩
  all_goals cases h

/-- A step of the idle engine that answers a next state: the host made no move, reset the engine, presented a request that
decodes to a host operation, or presented an unassigned OP (spec/60_exceptions.md R266, 30_encoding.md R96). -/
theorem hostTurn_cases {s t : State} (h : hostTurn s = .next t) :
    (s.host = [] ∧ t = s)
      ∨ (∃ rest, s.host = .reset :: rest ∧ t = { s with host := rest }.engineReset)
      ∨ ∃ bytes rest, s.host = .request bytes :: rest ∧
        (t = { s with host := rest }.illegalOperation
          ∨ ∃ i t', decodeRequest bytes = .ok (i, []) ∧ exec i { s with host := rest } = .next t'
            ∧ t = t'.latchDescriptor bytes) := by
  unfold hostTurn at h
  split at h
  case h_1 hh => cases h; exact .inl ⟨hh, rfl⟩
  case h_2 rest hh => cases h; exact .inr (.inl ⟨rest, hh, rfl⟩)
  case h_3 bytes rest hh =>
    refine .inr (.inr ⟨bytes, rest, hh, ?_⟩)
    unfold presentRequest at h
    split at h
    case h_1 i hd =>
      obtain ⟨t', hx, ht⟩ := execRequest_next h
      exact .inr ⟨i, t', hd, hx, ht⟩
    case h_3 =>
      split at h
      · cases h; exact .inl rfl
      · cases h
    all_goals cases h

/-- A decoded request: its descriptor and stream, and what they decode to. -/
theorem decodeRequest_ok {bytes rest : List Byte} {i : Instr} (h : decodeRequest bytes = .ok (i, rest)) :
    ∃ d stream, readDescriptor bytes = some (d, stream) ∧ decodeDescriptor d stream = .ok (i, rest) := by
  unfold decodeRequest at h
  split at h
  · cases h
  · exact ⟨_, _, ‹_›, h⟩

theorem decodeRequest_isBus {bytes rest : List Byte} {i : Instr} (h : decodeRequest bytes = .ok (i, rest)) :
    i.isBus = false := by
  obtain ⟨d, stream, -, hd⟩ := decodeRequest_ok h
  exact operation_isBus (withDescriptor_operation hd)

end Sys2Proof.Machine
end

section
/-! O44 (spec/10_state.md R25, R27, R31, R36, R39, 60_exceptions.md R255). An operation that stands at some place of its own
sequence meets the invariant wherever it stops next; a step starts one or goes on with one. -/

namespace Sys2Proof.Machine

/-- An operation's sequence depends on the strap, the parameters, BG and REFRESH only. -/
theorem sequenceOf_congr (i : Instr) {s t : State} (hrev : t.rev = s.rev) (hparams : t.params = s.params)
    (hbg : t.bg = s.bg) (hrefresh : t.refresh = s.refresh) : sequenceOf i t = sequenceOf i s := by
  cases i <;> simp only [sequenceOf, initBody, sleepBody, sleepActivation, setLutBody, updateFrameBody, updatePartialBody,
    updateColorBody, displayBody, clearBody, clearPass, fill, hrev, hparams, hbg, hrefresh]

theorem sequenceOf_accept (i j : Instr) (s : State) : sequenceOf i (s.accept j) = sequenceOf i s :=
  sequenceOf_congr i rfl rfl rfl rfl

/-- Where a step goes on, SEQ is taken up first. -/
theorem sequenceOf_withSeq (i : Instr) (s : State) (q : List Item) : sequenceOf i { s with seq := q } = sequenceOf i s :=
  sequenceOf_congr i rfl rfl rfl rfl

/-- A passed pre-check of an operation that needs Ready (spec/60_exceptions.md R255). -/
theorem ready_of_preCheck {i : Instr} {s : State} (hc : preCheck i s = none) (hn : needsReady s.rev i = true) :
    s.pstate = .ready := by
  have ready : checkReady s = none → s.pstate = .ready := by simp [checkReady]
  cases i <;> simp_all [preCheck, needsReady, firstFailed_eq_none]

/-! States that meet the invariant. -/

/-- ACTIVE is 0 and nothing is held of an operation. -/
theorem inv_of_idle {s : State} (ha : s.active = false)
    (hempty : s.req = none ∧ s.seq = [] ∧ s.polls = none ∧ s.pend = none) (hl : s.legacyRegisters)
    (he : s.errInfoFits) : s.Inv := by
  refine ⟨fun _ => hempty, fun h => ?_, hl, fun _ h => ?_, he⟩ <;> rw [ha] at h <;> cases h

theorem inv_engineReset (s : State) : s.engineReset.Inv :=
  inv_of_idle rfl ⟨rfl, rfl, rfl, rfl⟩ (legacyRegisters_engineReset s) (errInfoFits_engineReset s)

theorem inv_raise {s : State} (hl : s.legacyRegisters) (he : s.errInfoFits) (code : Status) (info : Nat) :
    (s.raise code info).Inv :=
  inv_of_idle rfl ⟨rfl, rfl, rfl, rfl⟩ hl (errInfoFits_raise he code info)

/-! An operation on its way. -/

/-- Operation `i` is in progress; of its sequence `done` is behind it and `items` is to be run, nothing else being held in
SEQ. -/
structure Underway (i : Instr) (done items : List Item) (s : State) : Prop where
  active : s.active = true
  inOperation : s.inOperation i
  notRegister : isRegisterOp i = false
  noSeq : s.seq = []
  place : sequenceOf i s = done ++ items
  left : items ≠ []
  written : s.written done
  legacy : s.legacyRegisters
  ready : needsReady s.rev i = true → s.pstate = .ready
  errInfo : s.errInfoFits

theorem State.inOperation.isBus {s : State} {i : Instr} (h : s.inOperation i) : i.isBus = false := by
  obtain ⟨r, -, hr⟩ := h
  exact operation_isBus hr

theorem State.inOperation.unique {s : State} {i j : Instr} (hi : s.inOperation i) (hj : s.inOperation j) : i = j := by
  obtain ⟨r, hr, hi⟩ := hi
  obtain ⟨r', hr', hj⟩ := hj
  obtain rfl : r = r' := Option.some.inj (hr.symm.trans hr')
  exact Option.some.inj (hi.symm.trans hj)

/-- A stretch that ends with the completion stops. -/
theorem run_finishing (items : List Item) (s : State) : ∃ t, run (items ++ [.finish]) s = .stop t := by
  rw [run_append]
  split <;> exact ⟨_, rfl⟩

/-- Where an operation on its way waits, the invariant holds. -/
theorem Underway.inv_of_waitsIn {i : Instr} {done items : List Item} {s t : State} (h : Underway i done items s)
    (hw : WaitsIn items s t) (hl : t.legacyRegisters) (he : t.errInfoFits) : t.Inv := by
  obtain ⟨ran, x, left, hitems, hrefresh, hpower, ⟨hshadow, hduc⟩, hpend⟩ := hw.place
  have whole : sequenceOf i s = (done ++ ran) ++ .issue x :: left := by rw [h.place, hitems, List.append_assoc]
  obtain ⟨noPower, noRefresh⟩ :=
    (modesLast_sequenceOf h.inOperation.isBus h.notRegister s).before_issue whole
  simp only [List.mem_append, not_or] at noPower noRefresh
  have same : sequenceOf i t = (done ++ ran) ++ .issue x :: left :=
    (sequenceOf_congr i hw.rev hw.params hw.bg (hrefresh fun m => (noRefresh m).2)).trans whole
  have inOp : t.inOperation i := by
    obtain ⟨r, hr, hi⟩ := h.inOperation
    exact ⟨r, hw.req.trans hr, hi⟩
  have written : t.written (done ++ ran) := by
    obtain ⟨sh, v, hsh, hv⟩ := h.written
    exact ⟨sh, v, by rw [hshadow, hsh, shadowAfter_append], by rw [hduc, hv, duc2After_append]⟩
  refine ⟨fun ha => ?_, fun _ => ⟨i, done ++ ran, inOp, h.notRegister, written, ?_⟩, hl, fun j _ hj hn => ?_, he⟩
  · rw [hw.active, h.active] at ha
    cases ha
  · rw [h.noSeq, List.append_nil, List.append_nil] at hpend
    obtain ⟨hp, hasked, hseq⟩ | ⟨rfl, hp, hseq, n, hn, hlimit⟩ := hpend
    · exact .inl ⟨x, hp, hasked, hseq ▸ same⟩
    · exact .inr ⟨n, hw.params ▸ hp, hseq ▸ same, by rw [hseq]; rfl, hn, hw.params ▸ hlimit⟩
  · obtain rfl := inOp.unique hj
    rw [hpower fun p => (noPower p).2]
    exact h.ready (hw.rev ▸ hn)

/-- Wherever an operation on its way stops, the invariant holds. -/
theorem Underway.inv_run {i : Instr} {done items : List Item} {s : State} (h : Underway i done items s) :
    (run items s).state.Inv := by
  have hb := h.inOperation.isBus
  have inside : items ⊆ sequenceOf i s := h.place ▸ List.subset_append_right done items
  have hl : (run items s).state.legacyRegisters := by
    refine legacyRegisters_run h.legacy (fun hr m hm => ?_) (fun hr v hv => ?_)
    · exact setRefresh_notMem_sequenceOf hb (.inr (by rw [hr]; rfl)) m (inside hm)
    · exact compose_notMem_sequenceOf hb (.inr (by rw [hr]; rfl)) v (inside hv)
  have he : (run items s).state.errInfoFits := errInfoFits_run h.errInfo
  obtain ⟨front, hfront⟩ : ∃ front, items = front ++ [.finish] := by
    obtain ⟨body, hbody⟩ := sequence_finishes hb h.notRegister s
    rw [← List.getLast?_eq_some_iff, ← List.getLast?_append_of_ne_nil done h.left, ← h.place, hbody,
      List.getLast?_concat]
  obtain ⟨t, ht⟩ : ∃ t, run items s = .stop t := hfront ▸ run_finishing front s
  have hends := run_ends items s
  rw [ht] at hl he hends ⊢
  obtain hw | ⟨ha, hempty⟩ := hends
  · exact h.inv_of_waitsIn hw hl he
  · exact inv_of_idle ha hempty hl he

/-! The steps that go on with an operation. -/

theorem Underway.record {i : Instr} {done items : List Item} {s : State} (h : Underway i done items s) (t : Transaction)
    (a : Answer) : Underway i done items (s.record t a) :=
  ⟨h.active, h.inOperation, h.notRegister, h.noSeq, (sequenceOf_congr i rfl rfl rfl rfl).trans h.place, h.left, h.written,
    h.legacy, h.ready, h.errInfo⟩

theorem inv_resume {s : State} (h : s.Inv) (ha : s.active = true) : (resume s).Inv := by
  obtain ⟨-, htrack, hl, hready, he⟩ := h
  obtain ⟨i, done, hin, hr, hw, hplace⟩ := htrack ha
  have again : ∀ items, items ≠ [] → sequenceOf i s = done ++ items → Underway i done items { s with seq := [] } :=
    fun items hne hs =>
      ⟨ha, hin, hr, rfl, (sequenceOf_withSeq i s []).trans hs, hne, hw, hl, hready i ha hin, he⟩
  obtain ⟨x, hp, -, hs⟩ | ⟨n, hp, hs, hhead, -, -⟩ := hplace
  · rw [resume_of_pend hp]
    exact (again _ (by simp) hs).inv_run
  · have hne : s.seq ≠ [] := by
      intro hnil
      rw [hnil] at hhead
      cases hhead
    rw [resume_of_pend hp, run_cons, perform]
    by_cases hreset : ∃ env, s.env.next = some (.reset, env)
    · obtain ⟨env, henv⟩ := hreset
      rw [settle_reset (s := { s with seq := [] }) _ _ henv]
      exact inv_engineReset _
    · rw [settle_delay (s := { s with seq := [] }) _ _ (not_exists.mp hreset)]
      exact ((again _ hne hs).record _ _).inv_run

/-! The steps that take a move of the host's. -/

theorem inv_exec {i : Instr} (hb : i.isBus = false) {s t : State} (hl : s.legacyRegisters) (he : s.errInfoFits)
    (ha : s.active = false) (hx : exec i s = .next t) : t.Inv := by
  cases hr : isRegisterOp i with
  | true =>
    have hd := registerOpDone_exec hr ha hx
    refine inv_of_idle hd.active hd.empty (fun hlegacy => ?_) ?_
    · rw [hd.refresh, hd.duc2Acc]
      exact hl (hd.rev ▸ hlegacy)
    · rw [State.errInfoFits, hd.params, hd.errInfo]
      exact he
  | false =>
    obtain ⟨code, -, rfl⟩ | ⟨hc, rfl⟩ := exec_cases hb hr ha hx
    · exact inv_raise (s := s.accept i) hl he code 0
    · obtain ⟨body, hbody⟩ := sequence_finishes hb hr s
      have start : Underway i [] (sequenceOf i s) (s.accept i) :=
        ⟨rfl, ⟨_, rfl, requestOf_operation hb⟩, hr, rfl, sequenceOf_accept i i s, by simp [hbody],
          ⟨_, _, rfl, rfl⟩, hl, ready_of_preCheck hc, he⟩
      exact start.inv_run

/-- Latching a descriptor that leaves the operation as it is keeps the invariant. -/
theorem inv_latchDescriptor {s : State} {bytes : List Byte} (h : s.Inv)
    (hempty : s.req = none → (s.latchDescriptor bytes).req = none)
    (hop : ∀ i, (s.latchDescriptor bytes).inOperation i ↔ s.inOperation i) : (s.latchDescriptor bytes).Inv := by
  obtain ⟨hidle, htrack, hl, hready, he⟩ := h
  refine ⟨fun ha => ?_, fun ha => ?_, ?_, fun i ha hi => ?_, ?_⟩
  · obtain ⟨hreq, hrest⟩ := hidle (by simpa using ha)
    exact ⟨hempty hreq, by simpa using hrest⟩
  · obtain ⟨i, done, hi, hr, hw, hplace⟩ := htrack (by simpa using ha)
    refine ⟨i, done, (hop i).mpr hi, hr, by simpa [State.written] using hw, ?_⟩
    rw [sequenceOf_congr i (s := s) (by simp) (by simp) (by simp) (by simp)]
    simpa using hplace
  · simpa [State.legacyRegisters] using hl
  · simpa using hready i (by simpa using ha) ((hop i).mp hi)
  · simpa [State.errInfoFits] using he

/-- What the port latches after a request's operation has begun keeps the invariant. -/
theorem inv_execRequest {bytes : List Byte} {i : Instr} {s t : State} (hd : decodeRequest bytes = .ok (i, []))
    (hl : s.legacyRegisters) (he : s.errInfoFits) (ha : s.active = false) (hx : exec i s = .next t) :
    (t.latchDescriptor bytes).Inv := by
  obtain ⟨d, stream, hread, hdecode⟩ := decodeRequest_ok hd
  have hb := decodeRequest_isBus hd
  have hlatch := State.latchDescriptor_req t hread
  refine inv_latchDescriptor (inv_exec hb hl he ha hx) (fun hn => by rw [hlatch, hn]; rfl) fun j => ?_
  obtain ⟨-, hreq⟩ | ⟨-, hreq⟩ := exec_req hb ha hx <;>
    simp [State.inOperation, hlatch, hreq, withDescriptor_operation hdecode, requestOf_operation hb]

/-- Settles O44: a step of an active engine goes on with an operation on its way, one of the idle engine may start one. -/
theorem stepKeepsTheInvariant : Obligations.StepKeepsTheInvariant := by
  unfold Obligations.StepKeepsTheInvariant
  intro s t h hstep
  cases ha : s.active with
  | true =>
    rw [step_of_active ha] at hstep
    cases hstep
    exact inv_resume h ha
  | false =>
    rw [step_of_idle ha] at hstep
    have ⟨_, _, hl, _, he⟩ := h
    obtain ⟨-, rfl⟩ | ⟨rest, -, rfl⟩ | ⟨bytes, rest, -, rfl | ⟨i, u, hd, hx, rfl⟩⟩ := hostTurn_cases hstep
    · exact h
    · exact inv_engineReset _
    · exact inv_raise (s := { s with host := rest }) hl he _ _
    · exact inv_execRequest (s := { s with host := rest }) hd hl he ha hx

end Sys2Proof.Machine
end

section
/-! O41, O42 and O46 (spec/10_state.md R21, R24 to R32). A stretch changes only what its own items write, and those are the
registers that the operation's rule lists. -/

namespace Sys2Proof.Machine

/-! Frames. -/

/-- What the frame of operation `i` allows from `s` to `t`, for an operation that is no register operation. -/
structure OperationFrame (i : Instr) (s t : State) : Prop where
  host : t.host = s.host
  bg : t.bg = s.bg
  result : t.result = s.result
  pstate : i ≠ .init → i ≠ .sleep → t.pstate = s.pstate
  refresh : (∀ m, i ≠ .setLut m) → t.refresh = s.refresh
  duc2Acc : i ≠ .sleep → i ≠ .displayFrame → (∀ a, i ≠ .updateAndDisplayFrame a) → t.duc2Acc = s.duc2Acc
  shadow : i ≠ .init → writesRam i = false → t.shadow = s.shadow
  errInfo : t.code ≠ .busError → t.errInfo = s.errInfo
  going : t.active = true → t.code = s.code ∧ t.errInfo = s.errInfo ∧ t.req = s.req

/-- A stretch whose register writes are the operation's own stays in the operation's frame. -/
theorem OperationFrame.of_kept {i : Instr} {items : List Item} {s t : State} (hin : s.inOperation i)
    (hown : ∀ w ∈ items, w.isWrite = true → w ∈ sequenceOf i s) (hk : Kept items s t)
    (hp : (∀ p, .setPower p ∉ items) → t.pstate = s.pstate ∨ isPowerRequest s.req = true)
    (he : t.code ≠ .busError → t.errInfo = s.errInfo)
    (hg : t.active = true → t.code = s.code ∧ t.errInfo = s.errInfo ∧ t.req = s.req) : OperationFrame i s t where
  host := hk.host
  bg := hk.bg
  result := hk.result
  pstate := by
    intro hi hs
    obtain h | h := hp fun p h => setPower_notMem_sequenceOf hin.isBus hi hs s p (hown _ h rfl)
    · exact h
    · obtain ⟨r, hr, hop⟩ := hin
      rw [hr, isPowerRequest_of_operation hop] at h
      exact absurd h (not_or.mpr ⟨hi, hs⟩)
  refresh hi := hk.refresh fun m h => setRefresh_notMem_sequenceOf hin.isBus (.inl hi) m (hown _ h rfl)
  duc2Acc hs hd hu := hk.duc2Acc fun v h => compose_notMem_sequenceOf hin.isBus (.inl ⟨hs, hd, hu⟩) v (hown _ h rfl)
  shadow hi hr := hk.shadow fun w h => latch_notMem_sequenceOf hin.isBus hi hr s w (hown _ h rfl)
  errInfo := he
  going := hg

theorem operationFrame_run {i : Instr} {items : List Item} {s : State} (hin : s.inOperation i) (hn : s.noReset)
    (hown : ∀ w ∈ items, w.isWrite = true → w ∈ sequenceOf i s) : OperationFrame i s (run items s).state := by
  have hk := run_kept items s hn
  cases hr : run items s with
  | go t =>
    rw [hr] at hk
    exact .of_kept hin hown hk.toKept (fun h => .inl (hk.pstate h)) (fun _ => hk.errInfo)
      fun _ => ⟨hk.code, hk.errInfo, hk.req⟩
  | stop t =>
    rw [hr] at hk
    refine .of_kept hin hown hk.toKept hk.pstate hk.errInfo fun ha => ?_
    obtain h | ⟨-, hcode, herr, hreq, -⟩ := hk.ended
    · exact absurd (h.symm.trans ha) Bool.false_ne_true
    · exact ⟨hcode, herr, hreq⟩

theorem operationFrame_raise {i : Instr} {s : State} (hin : s.inOperation i) (hn : s.noReset) (code : Status) (info : Nat) :
    OperationFrame i s (s.raise code info) := by
  have kept : Kept [] s (s.raise code info) :=
    ⟨rfl, rfl, rfl, hn, fun _ => rfl, rfl, rfl, fun _ => rfl, fun _ => rfl, [], (List.append_nil _).symm⟩
  refine .of_kept hin (by simp) kept (fun _ => raise_pstate s code info) (fun hc => ?_) nofun
  simp only [State.raise_code] at hc
  simp only [State.raise_errInfo, errInfoAfter, if_neg hc]

/-- The first step of an operation, from the state that has accepted it. -/
theorem operationFrame_exec {i : Instr} (hb : i.isBus = false) (hr : isRegisterOp i = false) {s t : State}
    (ha : s.active = false) (hn : s.noReset) (h : exec i s = .next t) : OperationFrame i (s.accept i) t := by
  have hin : (s.accept i).inOperation i := ⟨_, rfl, requestOf_operation hb⟩
  obtain ⟨code, -, rfl⟩ | ⟨-, rfl⟩ := exec_cases hb hr ha h
  · exact operationFrame_raise hin hn code 0
  · exact operationFrame_run hin hn fun w hw _ => (sequenceOf_accept i i s).symm ▸ hw

/-! The register operations (45_register_ops.md). -/

theorem registerOp_bg {i : Instr} (hr : isRegisterOp i = true) {s t : State} (ha : s.active = false)
    (h : exec i s = .next t) (hi : ∀ c, i ≠ .setBackgroundColor c) : t.bg = s.bg := by
  cases i with
  | setBackgroundColor c => exact absurd rfl (hi c)
  | getBackgroundColor | getWidth | getHeight =>
    simp only [exec, execGetBackgroundColor, execGetWidth, execGetHeight, registerOperation, ha, Bool.false_eq_true,
      if_false] at h
    cases h
    rfl
  | _ => cases hr

theorem registerOp_result {i : Instr} (hr : isRegisterOp i = true) {s t : State} (ha : s.active = false)
    (h : exec i s = .next t) (hb : i ≠ .getBackgroundColor) (hw : i ≠ .getWidth) (hh : i ≠ .getHeight) :
    t.result = s.result := by
  cases i with
  | setBackgroundColor c =>
    simp only [exec, execSetBackgroundColor, registerOperation, ha, Bool.false_eq_true, if_false] at h
    cases h
    rfl
  | getBackgroundColor => exact absurd rfl hb
  | getWidth => exact absurd rfl hw
  | getHeight => exact absurd rfl hh
  | _ => cases hr

/-- Settles O41: while ACTIVE = 1 nothing changes, a register operation writes its one register, and any other operation
stays in its sequence's frame. -/
theorem hostOperationFrame : Obligations.HostOperationFrame := by
  unfold Obligations.HostOperationFrame
  intro i s t hb hn h
  obtain ⟨hrev, hparams, hhost, evs, htrace⟩ := sameInstance_exec hb h
  refine ⟨hrev, hparams, hhost, ?_⟩
  cases ha : s.active with
  | true =>
    obtain rfl := exec_of_active hb ha h
    exact ⟨fun _ _ => rfl, fun _ => rfl, fun _ => rfl, fun _ _ _ => rfl, fun _ _ _ => rfl, fun _ _ => rfl, fun _ => rfl,
      evs, htrace.symm⟩
  | false =>
    cases hr : isRegisterOp i with
    | true =>
      have hd := registerOpDone_exec hr ha h
      exact ⟨fun _ _ => hd.pstate, fun _ => hd.refresh, registerOp_bg hr ha h, registerOp_result hr ha h,
        fun _ _ _ => hd.duc2Acc, fun _ _ => hd.shadow, fun _ => hd.errInfo, evs, htrace.symm⟩
    | false =>
      have hf := operationFrame_exec hb hr ha hn h
      exact ⟨hf.pstate, hf.refresh, fun _ => hf.bg, fun _ _ _ => hf.result, hf.duc2Acc, hf.shadow, hf.errInfo, evs,
        htrace.symm⟩

/-- An operation in progress waits, and what is left of its sequence is its own. -/
theorem waiting_of_inv {s : State} {i : Instr} (h : s.Inv) (ha : s.active = true) (hi : s.inOperation i) :
    ∃ x, s.pend = some x ∧ s.seq ⊆ sequenceOf i s := by
  obtain ⟨-, htrack, -⟩ := h
  obtain ⟨j, done, hj, -, -, hplace⟩ := htrack ha
  obtain rfl := hi.unique hj
  obtain ⟨x, hp, -, hs⟩ | ⟨n, hp, hs, -⟩ := hplace
  · exact ⟨x, hp, fun w hw => by simp [hs, hw]⟩
  · exact ⟨_, hp, fun w hw => by simp [hs, hw]⟩

/-- Settles O42: the step runs the pending transaction and then a part of the operation's own sequence. -/
theorem resumedOperationFrame : Obligations.ResumedOperationFrame := by
  unfold Obligations.ResumedOperationFrame
  intro i s t h ha hi hn hstep
  obtain ⟨x, hp, hseq⟩ := waiting_of_inv h ha hi
  rw [step_of_active ha, resume_of_pend hp] at hstep
  cases hstep
  have own : ∀ w ∈ .issue x :: s.seq, w.isWrite = true → w ∈ sequenceOf i { s with seq := [] } := by
    intro w hw hwrite
    obtain rfl | hw := List.mem_cons.mp hw
    · cases hwrite
    · exact (sequenceOf_withSeq i s []).symm ▸ hseq hw
  have hf := operationFrame_run (s := { s with seq := [] }) hi hn own
  exact ⟨hf.host, hf.bg, hf.result, hf.pstate, hf.refresh, hf.duc2Acc, hf.shadow, hf.errInfo, hf.going⟩

/-! Strap and parameters. -/

/-- A step of the idle engine keeps strap and parameters, and takes the host's next move if it makes one. -/
theorem sameInstance_hostTurn {s t : State} (h : hostTurn s = .next t) :
    ∃ host, SameInstance { s with host := host } t ∧ (host = s.host ∨ ∃ m, s.host = m :: host) := by
  obtain ⟨-, rfl⟩ | ⟨rest, hh, rfl⟩ | ⟨bytes, rest, hh, rfl | ⟨i, u, hd, hx, rfl⟩⟩ := hostTurn_cases h
  · exact ⟨_, .refl _, .inl rfl⟩
  · exact ⟨rest, ⟨rfl, rfl, rfl, List.prefix_rfl⟩, .inr ⟨_, hh⟩⟩
  · exact ⟨rest, sameInstance_raise _ _ _, .inr ⟨_, hh⟩⟩
  · exact ⟨rest, (sameInstance_exec (decodeRequest_isBus hd) hx).trans (sameInstance_latchDescriptor u bytes),
      .inr ⟨_, hh⟩⟩

/-- Settles O46: going on with an operation keeps strap and parameters, and so does a move of the host's. -/
theorem stepKeepsTheInstance : Obligations.StepKeepsTheInstance := by
  unfold Obligations.StepKeepsTheInstance
  intro s t hstep
  cases ha : s.active with
  | true =>
    rw [step_of_active ha] at hstep
    cases hstep
    obtain ⟨hrev, hparams, hhost, evs, htrace⟩ := sameInstance_resume s
    exact ⟨hrev, hparams, ⟨evs, htrace.symm⟩, .inl hhost⟩
  | false =>
    rw [step_of_idle ha] at hstep
    obtain ⟨host, ⟨hrev, hparams, hhost, evs, htrace⟩, hmoves⟩ := sameInstance_hostTurn hstep
    exact ⟨hrev, hparams, ⟨evs, htrace.symm⟩, by rwa [hhost]⟩

end Sys2Proof.Machine
end

section
/-! O57, O6 and O12 (spec/10_state.md R30, R36, R37, 20_memory.md R69, 60_exceptions.md R250, R266): what REQ latches, the
bus command a step runs next, and the register window. -/

namespace Sys2Proof.Machine

/-! The latched request. -/

/-- A stream taken off the front, and what it leaves. -/
theorem takeStream_ok {n : Nat} {bytes a rest : List Byte} (h : takeStream n bytes = .ok (a, rest)) :
    a ++ rest = bytes ∧ a.length = n := by
  unfold takeStream at h
  split at h
  · cases h
  · cases h
    exact ⟨List.take_append_drop n bytes, List.length_take_of_le (by omega)⟩

theorem withStreamA_ok {d : Descriptor} {stream rest : List Byte} {mk : List Byte → Instr} {i : Instr}
    (h : withStreamA d stream mk = .ok (i, rest)) : ∃ a, i = mk a ∧ a ++ rest = stream := by
  unfold withStreamA at h
  split at h
  · cases h
  case h_2 a more ha =>
    cases h
    exact ⟨a, rfl, (takeStream_ok ha).1⟩

theorem withStreamsAB_ok {d : Descriptor} {stream rest : List Byte} {mk : List Byte → List Byte → Instr} {i : Instr}
    (h : withStreamsAB d stream mk = .ok (i, rest)) :
    ∃ a b, i = mk a b ∧ a ++ b ++ rest = stream ∧ a.length = d.lenA.toNat := by
  unfold withStreamsAB at h
  split at h
  · cases h
  case h_2 a more ha =>
    obtain ⟨happend, hlength⟩ := takeStream_ok ha
    split at h
    · cases h
    case h_2 b more' hb =>
      cases h
      exact ⟨a, b, rfl, by rw [List.append_assoc, (takeStream_ok hb).1, happend], hlength⟩

/-- The request of operation `i` has the descriptor's OP and the buffers that the streams give (spec/30_encoding.md R92,
R93), with `rest` left over. -/
def CarriesRequest (d : Descriptor) (stream rest : List Byte) (i : Instr) : Prop :=
  (requestOf i).op = d.op ∧ (requestOf i).bufA ++ (requestOf i).bufB ++ rest = stream
    ∧ (d.op = 0x12#8 → (requestOf i).bufA.length = d.lenA.toNat)

section Request

variable {d : Descriptor} {stream rest : List Byte} {i : Instr}

/-- An operation without a stream. -/
theorem carriesRequest_plain {j : Instr} {op : Byte} (hop : d.op.toNat = op.toNat)
    (hj : (requestOf j).op = op ∧ (requestOf j).bufA = [] ∧ (requestOf j).bufB = []) (hne : op ≠ 0x12#8)
    (h : (Except.ok (j, stream) : Except DecodeError (Instr × List Byte)) = .ok (i, rest)) :
    CarriesRequest d stream rest i := by
  cases h
  obtain rfl : d.op = op := BitVec.eq_of_toNat_eq hop
  obtain ⟨hj, ha, hb⟩ := hj
  exact ⟨hj, by rw [ha, hb]; rfl, fun h12 => absurd h12 hne⟩

/-- An operation with one stream. -/
theorem carriesRequest_streamA {mk : List Byte → Instr} {op : Byte} (hop : d.op.toNat = op.toNat)
    (hmk : ∀ a, (requestOf (mk a)).op = op ∧ (requestOf (mk a)).bufA = a ∧ (requestOf (mk a)).bufB = [])
    (hne : op ≠ 0x12#8) (h : withStreamA d stream mk = .ok (i, rest)) : CarriesRequest d stream rest i := by
  obtain ⟨a, rfl, happend⟩ := withStreamA_ok h
  obtain rfl : d.op = op := BitVec.eq_of_toNat_eq hop
  obtain ⟨hj, ha, hb⟩ := hmk a
  exact ⟨hj, by rw [ha, hb, List.append_nil]; exact happend, fun h12 => absurd h12 hne⟩

/-- UPDATE_COLOR_FRAME. -/
theorem carriesRequest_color (hop : d.op.toNat = (0x12#8).toNat)
    (h : withStreamsAB d stream .updateColorFrame = .ok (i, rest)) : CarriesRequest d stream rest i := by
  obtain ⟨a, b, rfl, happend, hlength⟩ := withStreamsAB_ok h
  exact ⟨(BitVec.eq_of_toNat_eq hop).symm, happend, fun _ => hlength⟩

theorem carriesRequest_of_decode (h : decodeDescriptor d stream = .ok (i, rest)) : CarriesRequest d stream rest i := by
  unfold decodeDescriptor at h
  split at h
  case h_1 hop => exact carriesRequest_plain (op := 0x01#8) hop ⟨rfl, rfl, rfl⟩ (by decide) h
  case h_2 hop => exact carriesRequest_plain (op := 0x02#8) hop ⟨rfl, rfl, rfl⟩ (by decide) h
  case h_3 hop => exact carriesRequest_plain (op := 0x03#8) hop ⟨rfl, rfl, rfl⟩ (by decide) h
  case h_4 hop => exact carriesRequest_plain (op := 0x04#8) hop ⟨rfl, rfl, rfl⟩ (by decide) h
  case h_5 hop => exact carriesRequest_streamA (op := 0x10#8) hop (fun _ => ⟨rfl, rfl, rfl⟩) (by decide) h
  case h_6 hop => exact carriesRequest_streamA (op := 0x11#8) hop (fun _ => ⟨rfl, rfl, rfl⟩) (by decide) h
  case h_7 hop => exact carriesRequest_color hop h
  case h_8 hop => exact carriesRequest_streamA (op := 0x13#8) hop (fun _ => ⟨rfl, rfl, rfl⟩) (by decide) h
  case h_9 hop => exact carriesRequest_streamA (op := 0x14#8) hop (fun _ => ⟨rfl, rfl, rfl⟩) (by decide) h
  case h_10 hop => exact carriesRequest_plain (op := 0x18#8) hop ⟨rfl, rfl, rfl⟩ (by decide) h
  case h_11 hop => exact carriesRequest_streamA (op := 0x19#8) hop (fun _ => ⟨rfl, rfl, rfl⟩) (by decide) h
  case h_12 hop => exact carriesRequest_plain (op := 0x1A#8) hop ⟨rfl, rfl, rfl⟩ (by decide) h
  case h_13 hop => exact carriesRequest_plain (op := 0x20#8) hop ⟨rfl, rfl, rfl⟩ (by decide) h
  case h_14 hop => exact carriesRequest_plain (op := 0x21#8) hop ⟨rfl, rfl, rfl⟩ (by decide) h
  case h_15 hop => exact carriesRequest_plain (op := 0x22#8) hop ⟨rfl, rfl, rfl⟩ (by decide) h
  case h_16 hop => exact carriesRequest_plain (op := 0x23#8) hop ⟨rfl, rfl, rfl⟩ (by decide) h
  case h_17 => cases h

end Request

/-- Settles O57: the port puts the descriptor's fields into the request that the operation latched. -/
theorem requestIsLatched : Obligations.RequestIsLatched := by
  unfold Obligations.RequestIsLatched
  intro s t i b₀ b₁ b₂ b₃ b₄ b₅ b₆ b₇ b₈ b₉ b₁₀ b₁₁ b₁₂ b₁₃ b₁₄ b₁₅ stream moves request ha hhost hd hstep
  obtain ⟨d, stream', hread, hdecode⟩ := decodeRequest_ok hd
  rw [step_of_idle ha] at hstep
  simp only [hostTurn, hhost, presentRequest, hd] at hstep
  obtain ⟨t', hx, rfl⟩ := execRequest_next hstep
  have hlatch := State.latchDescriptor_req t' hread
  cases hread
  obtain ⟨hop, hstream, hlength⟩ := carriesRequest_of_decode hdecode
  refine ⟨⟨t', hx, State.latchDescriptor_eq t' request⟩, ?_⟩
  rw [State.latchDescriptor_active, hlatch]
  obtain ⟨hactive, hreq⟩ | ⟨hactive, hreq⟩ := exec_req (s := { s with host := moves }) (decodeRequest_isBus hd) ha hx
  · simp [hreq, hactive]
  · rw [hactive, hreq]
    exact ⟨nofun, fun _ => ⟨_, rfl, withDescriptor_operation hdecode, hop, rfl, rfl, rfl, rfl, rfl,
      (List.append_nil _).symm.trans hstream, hlength⟩⟩

/-! The next command. -/

/-- Settles O6: what is left of the sequence runs where the command goes on. -/
theorem stepRunsTheNextCommand : Obligations.StepRunsTheNextCommand := by
  unfold Obligations.StepRunsTheNextCommand
  intro c rest s hb hw ha hp hseq
  refine ⟨(run (commandItems c) { s with seq := rest }).state, ?_, ?_⟩
  · rw [exec_command hb hw, emitCommand, if_pos ha, proceed_of_none (s := { s with seq := rest }) hp]
  rw [step, if_pos ha, resume_of_none hp, hseq, run_append]
  simp only [List.append_nil]
  have hends := run_ends (commandItems c) { s with seq := rest }
  cases hr : run (commandItems c) { s with seq := rest } with
  | go u =>
    rw [hr] at hends
    have hpend : u.pend = none := hends.pend hp
    simp only [Turn.state, hends.active, ha, hpend, and_self, if_true, resume_of_none hpend, hends.seq]
  | stop u =>
    rw [hr] at hends
    obtain ⟨hactive, -, -, -, -, done, x, left, -, -, -, -, hpend⟩ | ⟨hactive, -⟩ := hends
    · obtain ⟨hpend, -⟩ | ⟨-, hpend, -⟩ := hpend <;> simp [Turn.state, hpend]
    · simp [Turn.state, hactive]

/-! The register window. -/

/-- STATUS: CODE in bits 2:0, zeros in bits 6:3, ACTIVE in bit 7 (R30). -/
theorem status_bits (code : Status) (active : Bool) :
    let v := BitVec.ofNat 8 (statusNumber code + 128 * active.toNat)
    v.extractLsb' 0 3 = BitVec.ofNat 3 (statusNumber code) ∧ v.extractLsb' 3 4 = 0#4 ∧ v.getLsbD 7 = active := by
  cases code <;> cases active <;> decide

/-- PINS: CS_N, DC and RST_N in bits 0, 1 and 2 (R37). -/
theorem pins_bits (c d r : Level) :
    let n := pinsNumber { csN := c, dc := d, rstN := r }
    (n.testBit 0 = true ↔ c = .high) ∧ (n.testBit 1 = true ↔ d = .high) ∧ (n.testBit 2 = true ↔ r = .high) ∧ n < 8 := by
  cases c <;> cases d <;> cases r <;> decide

/-- Reserved numbers of the window (spec/93_implementation_defined.md I12). -/
theorem windowRead_reserved (s : State) {n : Nat} (h : 0xF ≤ n) : windowRead s n = 0 := by
  obtain ⟨k, rfl⟩ := Nat.exists_eq_add_of_le' h
  rfl

/-- Settles O12: STATUS and PINS bit by bit, the other numbers by the window's own table. -/
theorem statusAndReservedNumbers : Obligations.StatusAndReservedNumbers := by
  unfold Obligations.StatusAndReservedNumbers
  intro s
  obtain ⟨hcode, hzero, hactive⟩ := status_bits s.code s.active
  obtain ⟨hcs, hdc, hrst, hlt⟩ := pins_bits s.pins.csN s.pins.dc s.pins.rstN
  refine ⟨?_, hzero, hactive, rfl, rfl, rfl, rfl, rfl, rfl, rfl, rfl, rfl, rfl, rfl, rfl, rfl, rfl, hcs, hdc, hrst, hlt,
    fun n => windowRead_reserved s⟩
  refine hcode.trans ?_
  cases s.code <;> rfl

end Sys2Proof.Machine
end

section
/-! O55 (spec/20_memory.md R71, R74). One event keeps a bank of the observer, makes it unknown, or writes one of its 4000
entries, and each of these keeps the bank in form. -/

namespace Sys2Proof.Machine

/-- The bank that a RAM write command addresses. -/
def Observer.bank (o : Observer) (isA : Bool) : Memory := if isA then o.bankA else o.bankC

theorem Observer.bank_setBank (o : Observer) (isA isA' : Bool) (m : Memory) :
    (o.setBank isA m).bank isA' = if isA' = isA then m else o.bank isA' := by
  cases isA <;> cases isA' <;> rfl

/-- All that one event can do to a bank: it keeps it, makes it unknown, or writes one entry of its 4000. -/
inductive BankChange (m : Memory) : Memory → Prop
  | kept : BankChange m m
  | forgotten : BankChange m []
  | written (a : Nat) (b : Byte) (h : a < 4000) : BankChange m (m.write a b)

theorem Observer.target_lt {o : Observer} {a : Nat} (h : o.target = some a) : a < 4000 := by
  unfold Observer.target at h
  split at h
  · split at h
    · cases h
      omega
    · cases h
  · cases h

theorem Observer.bankChange_ramByte (o : Observer) (isA isA' : Bool) (b : Byte) :
    BankChange (o.bank isA') ((o.ramByte isA b).bank isA') := by
  have hbank : (o.ramByte isA b).bank isA' =
      if isA' = isA then (match o.target with | some a => (o.bank isA).write a b | none => []) else o.bank isA' :=
    o.bank_setBank isA isA' _
  rw [hbank]
  split
  next h =>
    subst h
    split
    next a ht => exact .written a b (target_lt ht)
    next => exact .forgotten
  next => exact .kept

theorem Observer.bank_setField (o : Observer) (op : Nat) (isA : Bool) : (o.setField op).bank isA = o.bank isA := by
  unfold Observer.setField
  split <;> rfl

/-- What a byte of a data frame does: it is delivered to nothing, to a bank, or to a window or cursor field (R72). -/
theorem Observer.dataByte_cases (o : Observer) (b : Byte) :
    let o' := { o with data := o.data ++ [b] }
    o.dataByte b = o' ∨ (∃ isA, o.dataByte b = o'.ramByte isA b) ∨ ∃ op, o.dataByte b = o'.setField op := by
  unfold Observer.dataByte
  split
  · exact .inl rfl
  · split
    · exact .inr (.inl ⟨true, rfl⟩)
    · split
      · exact .inr (.inl ⟨false, rfl⟩)
      · exact .inr (.inr ⟨_, rfl⟩)

theorem Observer.bankChange_dataByte (o : Observer) (b : Byte) (isA : Bool) :
    BankChange (o.bank isA) ((o.dataByte b).bank isA) := by
  obtain h | ⟨isA', h⟩ | ⟨op, h⟩ := o.dataByte_cases b <;> rw [h]
  · exact .kept
  · exact bankChange_ramByte { o with data := o.data ++ [b] } isA' isA b
  · rw [bank_setField]
    exact .kept

theorem Observer.bank_forget (o : Observer) (isA : Bool) : o.forget.bank isA = [] := by
  cases isA <;> rfl

theorem Observer.bankChange_forget (o : Observer) (isA : Bool) : BankChange (o.bank isA) (o.forget.bank isA) :=
  o.bank_forget isA ▸ .forgotten

theorem Observer.bankChange_wireByte (o : Observer) (b : Byte) (isA : Bool) :
    BankChange (o.bank isA) ((o.wireByte b).bank isA) := by
  unfold Observer.wireByte
  split
  · exact o.bankChange_forget isA
  · split
    · exact .kept
    · split
      · unfold Observer.commandByte
        split <;> exact .kept
      · exact o.bankChange_dataByte b isA

theorem Observer.bankChange_wirePin (o : Observer) (p : Pin) (l : Level) (isA : Bool) :
    BankChange (o.bank isA) ((o.wirePin p l).bank isA) := by
  unfold Observer.wirePin
  split
  case h_5 =>
    simp only
    split
    · exact o.bankChange_forget isA
    · exact .kept
  all_goals exact .kept

theorem Observer.bankChange_see (o : Observer) (e : Event) (isA : Bool) :
    BankChange (o.bank isA) ((o.see e).bank isA) := by
  unfold Observer.see
  split
  · exact o.bankChange_wirePin _ _ isA
  · exact o.bankChange_wireByte _ isA
  · exact o.bankChange_forget isA
  · unfold Observer.pinFailed
    split
    · exact .kept
    · exact .kept
    · exact o.bankChange_forget isA
  · exact .kept

/-- A bank in form: its addresses rise, and none lies outside its 4000 entries (R71, R74). -/
structure Memory.InBank (m : Memory) : Prop where
  wf : m.wf = true
  bounded : ∀ a, 4000 ≤ a → m.read a = none

theorem Memory.inBank_nil : Memory.InBank [] := ⟨rfl, fun _ _ => rfl⟩

theorem BankChange.inBank {m m' : Memory} (h : BankChange m m') (hm : m.InBank) : m'.InBank := by
  cases h with
  | kept => exact hm
  | forgotten => exact Memory.inBank_nil
  | written a b ha =>
    refine ⟨Memory.wf_write m a b hm.wf, fun a' ha' => ?_⟩
    rw [Memory.read_write_other m b (by omega), hm.bounded a' ha']

theorem Observer.inBank_foldl (trace : List Event) (isA : Bool) :
    ∀ o : Observer, (o.bank isA).InBank → ((trace.foldl Observer.see o).bank isA).InBank := by
  induction trace with
  | nil => exact fun _ h => h
  | cons e trace ih => exact fun o h => ih (o.see e) ((o.bankChange_see e isA).inBank h)

/-- Settles O55: both banks start in form, and every event keeps them there. -/
theorem observerKeepsItsBanksInForm : Obligations.ObserverKeepsItsBanksInForm := by
  unfold Obligations.ObserverKeepsItsBanksInForm
  intro trace
  obtain ⟨wfA, boundedA⟩ := Observer.inBank_foldl trace true .start Memory.inBank_nil
  obtain ⟨wfC, boundedC⟩ := Observer.inBank_foldl trace false .start Memory.inBank_nil
  exact ⟨wfA, wfC, fun a ha => ⟨boundedA a ha, boundedC a ha⟩⟩

end Sys2Proof.Machine
end

section
/-! O52, O54 and O56 (spec/20_memory.md R72 to R77). A frame whose transactions are all accepted is one change of the
observer's view, and the bytes of a full-panel write fill the bank from entry 0 on in order. -/

namespace Sys2Proof.Machine

/-! What a frame does to the view. -/

theorem Observer.wireByte_command {o : Observer} (b : Byte) (h : o.lost = false) (hcs : o.pins.csN = .low)
    (hdc : o.pins.dc = .low) : o.wireByte b = o.commandByte b := by
  simp [Observer.wireByte, h, hcs, hdc]

theorem Observer.wireByte_data {o : Observer} (b : Byte) (h : o.lost = false) (hcs : o.pins.csN = .low)
    (hdc : o.pins.dc = .high) : o.wireByte b = o.dataByte b := by
  simp [Observer.wireByte, h, hcs, hdc]

/-- The observer in a frame that has just begun. -/
def Observer.inFrame (o : Observer) (dc : Level) : Observer :=
  { o with pins := { o.pins with csN := .low, dc := dc }, data := [] }

/-- A command frame delivers its byte as a command (R72). -/
theorem foldl_see_evCmd (o : Observer) (op : Byte) (h : o.lost = false) :
    (evCmd op).foldl Observer.see o = ((o.inFrame .low).commandByte op).wirePin .csN .high :=
  congrArg (Observer.wirePin · .csN .high) (Observer.wireByte_command (o := o.inFrame .low) op h rfl rfl)

/-- Settles O54: the pulse's rising edge forgets everything, and 0x12 the addressing only. -/
theorem observerForgetsAtReset : Obligations.ObserverForgetsAtReset := by
  unfold Obligations.ObserverForgetsAtReset
  rintro o pulsed reset us us' rfl rfl
  refine ⟨⟨rfl, rfl, rfl, rfl, rfl, rfl, rfl, rfl, rfl, rfl⟩, fun h => ?_⟩
  rw [foldl_see_evCmd o _ h]
  exact ⟨rfl, rfl, rfl, rfl, rfl, rfl, rfl, rfl, rfl⟩

theorem Observer.wire_dataByte (o : Observer) (b : Byte) :
    (o.dataByte b).pins = o.pins ∧ (o.dataByte b).lost = o.lost := by
  obtain h | ⟨isA, h⟩ | ⟨op, h⟩ := o.dataByte_cases b <;> rw [h]
  · exact ⟨rfl, rfl⟩
  · cases isA <;> exact ⟨rfl, rfl⟩
  · unfold Observer.setField
    split <;> exact ⟨rfl, rfl⟩

/-- The bytes of a data frame are delivered one by one (R72). -/
theorem foldl_see_evBytes (bytes : List Byte) (o : Observer) (h : o.lost = false) (hcs : o.pins.csN = .low)
    (hdc : o.pins.dc = .high) : (evBytes bytes).foldl Observer.see o = bytes.foldl Observer.dataByte o := by
  induction bytes generalizing o with
  | nil => rfl
  | cons b bytes ih =>
    obtain ⟨hpins, hlost⟩ := o.wire_dataByte b
    calc (evBytes (b :: bytes)).foldl Observer.see o
        = (evBytes bytes).foldl Observer.see (o.wireByte b) := rfl
      _ = bytes.foldl Observer.dataByte (o.dataByte b) := by
        rw [Observer.wireByte_data b h hcs hdc, ih _ (hlost.trans h) (hpins ▸ hcs) (hpins ▸ hdc)]

/-- The start of a data frame and the bytes accepted in it (R72). -/
theorem foldl_see_openDat (bytes : List Byte) (o : Observer) (h : o.lost = false) :
    (evPin .csN .low ++ evPin .dc .high ++ evBytes bytes).foldl Observer.see o =
      bytes.foldl Observer.dataByte (o.inFrame .high) := by
  rw [List.foldl_append]
  exact foldl_see_evBytes bytes (o.inFrame .high) h rfl rfl

theorem foldl_see_append {e₁ e₂ : List Event} {o o₁ o₂ : Observer} (h₁ : e₁.foldl Observer.see o = o₁)
    (h₂ : e₂.foldl Observer.see o₁ = o₂) : (e₁ ++ e₂).foldl Observer.see o = o₂ := by
  rw [List.foldl_append, h₁, h₂]

/-- A command and its data: every byte is delivered to the command (R72). -/
theorem foldl_see_send (o : Observer) (op : Byte) (bytes : List Byte) (h : o.lost = false) (hop : op ≠ 0x12#8) :
    (evCmd op ++ evDat bytes).foldl Observer.see o =
      (bytes.foldl Observer.dataByte { o.inFrame .high with cmd := some op }).wirePin .csN .high := by
  have sent : (evCmd op).foldl Observer.see o = { o with cmd := some op, pins := o.pins.afterCommand, data := [] } := by
    rw [foldl_see_evCmd o op h, Observer.commandByte, if_neg hop]
    rfl
  rw [evDat, ← List.append_assoc, List.foldl_append, List.foldl_append, sent,
    foldl_see_openDat bytes { o with cmd := some op, pins := o.pins.afterCommand, data := [] } h]
  rfl

/-! The window and cursor commands set their fields (R73). -/

theorem foldl_see_windowX (o : Observer) (a b : Byte) (h : o.lost = false) :
    (evCmd 0x44#8 ++ evDat [a, b]).foldl Observer.see o =
      { o with xs := some a.toNat, xe := some b.toNat, cmd := some 0x44#8, pins := o.pins.afterData, data := [a, b] } := by
  rw [foldl_see_send o _ _ h (by decide)]
  simp [Observer.dataByte, Observer.setField, Observer.inFrame, Observer.wirePin, Pins.afterData]

theorem foldl_see_windowY (o : Observer) (a b c d : Byte) (h : o.lost = false) :
    (evCmd 0x45#8 ++ evDat [a, b, c, d]).foldl Observer.see o =
      { o with
        ys := some (leWord a b), ye := some (leWord c d)
        cmd := some 0x45#8, pins := o.pins.afterData, data := [a, b, c, d] } := by
  rw [foldl_see_send o _ _ h (by decide)]
  simp [Observer.dataByte, Observer.setField, Observer.inFrame, Observer.wirePin, Pins.afterData]

theorem foldl_see_counterX (o : Observer) (a : Byte) (h : o.lost = false) :
    (evCmd 0x4E#8 ++ evDat [a]).foldl Observer.see o =
      { o with cx := some a.toNat, cmd := some 0x4E#8, pins := o.pins.afterData, data := [a] } := by
  rw [foldl_see_send o _ _ h (by decide)]
  simp [Observer.dataByte, Observer.setField, Observer.inFrame, Observer.wirePin, Pins.afterData]

theorem foldl_see_counterY (o : Observer) (a b : Byte) (h : o.lost = false) :
    (evCmd 0x4F#8 ++ evDat [a, b]).foldl Observer.see o =
      { o with cy := some (leWord a b), cmd := some 0x4F#8, pins := o.pins.afterData, data := [a, b] } := by
  rw [foldl_see_send o _ _ h (by decide)]
  simp [Observer.dataByte, Observer.setField, Observer.inFrame, Observer.wirePin, Pins.afterData]

/-- What comes before the data of a RAM write sets the window and the cursor (R73, 42_ram_addressing.md R180, R181). -/
theorem foldl_see_openWindow (o : Observer) (r : Rect) (h : o.lost = false) :
    (evArea r ++ evCounters r.startX r.startY).foldl Observer.see o =
      { o with
        xs := some (xUnits r.startX).toNat, xe := some (xUnits r.endX).toNat
        ys := some (leWord (lo8 r.startY) (hi8 r.startY)), ye := some (leWord (lo8 r.endY) (hi8 r.endY))
        cx := some (xUnits r.startX).toNat, cy := some (leWord (lo8 r.startY) (hi8 r.startY))
        cmd := some 0x4F#8, pins := o.pins.afterData, data := [lo8 r.startY, hi8 r.startY] } := by
  have commands : evArea r ++ evCounters r.startX r.startY =
      (evCmd 0x44#8 ++ evDat [xUnits r.startX, xUnits r.endX])
        ++ (evCmd 0x45#8 ++ evDat [lo8 r.startY, hi8 r.startY, lo8 r.endY, hi8 r.endY])
        ++ evWaitOk ++ (evCmd 0x4E#8 ++ evDat [xUnits r.startX])
        ++ (evCmd 0x4F#8 ++ evDat [lo8 r.startY, hi8 r.startY]) := by
    simp [evArea, evCounters]
  rw [commands]
  exact foldl_see_append (foldl_see_append (foldl_see_append (foldl_see_append
    (foldl_see_windowX o _ _ h) (foldl_see_windowY _ _ _ _ _ h)) rfl) (foldl_see_counterX _ _ h)) (foldl_see_counterY _ _ _ h)

/-! A RAM write to the full panel. -/

/-- The command that writes bank A or bank C (R74). -/
def ramOp (isA : Bool) : Byte := if isA then 0x24#8 else 0x26#8

/-- A RAM byte at a known place of the bank is written there, and the cursor advances (R74). -/
theorem Observer.dataByte_of_target {o : Observer} {isA : Bool} {a : Nat} {x y : Option Nat} (b : Byte)
    (hcmd : o.cmd = some (ramOp isA)) (htarget : o.target = some a)
    (hnext : advanceCursor o.xs o.xe o.ys o.ye o.cx o.cy = (x, y)) :
    o.dataByte b = { o.setBank isA ((o.bank isA).write a b) with cx := x, cy := y, data := o.data ++ [b] } := by
  have delivered : o.dataByte b = { o with data := o.data ++ [b] }.ramByte isA b := by
    simp only [Observer.dataByte, hcmd]
    cases isA <;> rfl
  have htarget' : ({ o with data := o.data ++ [b] } : Observer).target = some a := htarget
  simp only [delivered, Observer.ramByte, htarget', hnext]
  cases isA <;> rfl

/-- The view in the data frame of a full-panel write after the bytes `sent`: the window open, the cursor at the entry for the
next byte, which after the last entry is the origin again (R74, R77), and `m` in the bank. -/
def Observer.filling (o : Observer) (isA : Bool) (sent : List Byte) (m : Memory) : Observer :=
  { o with
    bankA := if isA then m else o.bankA, bankC := if isA then o.bankC else m
    xs := some 0, xe := some 15, ys := some 0, ye := some 249
    cx := some (sent.length % 16), cy := some (sent.length % 4000 / 16)
    cmd := some (ramOp isA), pins := { o.pins with csN := .low, dc := .high }, data := sent }

theorem Observer.bank_filling (o : Observer) (isA isA' : Bool) (sent : List Byte) (m : Memory) :
    (o.filling isA sent m).bank isA' = if isA' = isA then m else o.bank isA' := by
  cases isA <;> cases isA' <;> rfl

/-- The start of a full-panel write's data frame: the cursor is at the origin. -/
theorem foldl_see_openFullPanel (o : Observer) (isA : Bool) (h : o.lost = false) :
    (evArea fullPanel ++ evCounters 0 0 ++ evCmd (ramOp isA) ++ (evPin .csN .low ++ evPin .dc .high)).foldl Observer.see o =
      o.filling isA [] (o.bank isA) := by
  refine (foldl_see_append (foldl_see_append (foldl_see_openWindow o fullPanel h) (foldl_see_evCmd _ _ h)) rfl).trans ?_
  cases isA <;> rfl

theorem Observer.target_filling (o : Observer) (isA : Bool) {sent : List Byte} (m : Memory) (h : sent.length < 4000) :
    (o.filling isA sent m).target = some sent.length := by
  simp only [Observer.target, Observer.filling]
  rw [if_pos (by omega)]
  congr 1
  omega

/-- The cursor goes through the rows of the full panel one after the other, and back to the origin. -/
theorem advanceCursor_fullPanel {n : Nat} (h : n < 4000) :
    advanceCursor (some 0) (some 15) (some 0) (some 249) (some (n % 16)) (some (n % 4000 / 16)) =
      (some ((n + 1) % 16), some ((n + 1) % 4000 / 16)) := by
  simp only [advanceCursor, Option.map_some]
  by_cases hx : n % 16 + 1 > 15
  · by_cases hy : n % 4000 / 16 + 1 > 249
    · simp only [if_pos hx, if_pos hy, Prod.mk.injEq, Option.some.injEq]
      omega
    · simp only [if_pos hx, if_neg hy, Prod.mk.injEq, Option.some.injEq]
      omega
  · have hy : ¬n % 4000 / 16 > 249 := by omega
    simp only [if_neg hx, if_neg hy, Prod.mk.injEq, Option.some.injEq]
    omega

/-- One byte of a full-panel write goes to the next entry of the bank. -/
theorem Observer.dataByte_filling (o : Observer) (isA : Bool) {sent : List Byte} (m : Memory) (h : sent.length < 4000)
    (b : Byte) :
    (o.filling isA sent m).dataByte b = o.filling isA (sent ++ [b]) (m.write sent.length b) := by
  have next := advanceCursor_fullPanel h
  rw [show sent.length + 1 = (sent ++ [b]).length by simp] at next
  rw [Observer.dataByte_of_target (isA := isA) b rfl (o.target_filling isA m h) next]
  cases isA <;> rfl

/-- The bytes of a write, from one entry of a bank on. -/
def Memory.writeAll (m : Memory) (a : Nat) : List Byte → Memory
  | [] => m
  | b :: bytes => (m.write a b).writeAll (a + 1) bytes

theorem Memory.read_writeAll (bytes : List Byte) (m : Memory) (a i : Nat) :
    (m.writeAll a bytes).read i = if a ≤ i ∧ i < a + bytes.length then bytes[i - a]? else m.read i := by
  induction bytes generalizing m a with
  | nil => simp [Memory.writeAll]
  | cons b bytes ih =>
    rw [Memory.writeAll, ih, Memory.read_write, List.length_cons]
    obtain hi | rfl | hi := Nat.lt_trichotomy i a
    · rw [if_neg (by omega), if_neg (by omega), if_neg (by omega)]
    · simp
    · rw [show i - a = (i - (a + 1)) + 1 by omega, List.getElem?_cons_succ, if_neg (by omega : ¬i = a)]
      exact if_congr (by omega) rfl rfl

/-- The bytes of a full-panel write fill the bank in order. -/
theorem Observer.foldl_dataByte_filling (o : Observer) (isA : Bool) (bytes sent : List Byte) (m : Memory)
    (h : sent.length + bytes.length ≤ 4000) :
    bytes.foldl Observer.dataByte (o.filling isA sent m) =
      o.filling isA (sent ++ bytes) (m.writeAll sent.length bytes) := by
  induction bytes generalizing sent m with
  | nil => simp [Memory.writeAll]
  | cons b bytes ih =>
    rw [List.length_cons] at h
    rw [List.foldl_cons, o.dataByte_filling isA m (by omega), ih _ _ (by simp; omega)]
    simp [Memory.writeAll]

/-- A full-panel write whose bytes have all been accepted so far, its frame still open. -/
theorem foldl_see_fullPanelBytes (o : Observer) (isA : Bool) (bytes : List Byte) (h : o.lost = false)
    (hl : bytes.length ≤ 4000) :
    (evArea fullPanel ++ evCounters 0 0 ++ evCmd (ramOp isA) ++ evPin .csN .low ++ evPin .dc .high
        ++ evBytes bytes).foldl Observer.see o =
      o.filling isA bytes ((o.bank isA).writeAll 0 bytes) := by
  have sent := foldl_see_evBytes bytes (o.filling isA [] (o.bank isA)) h rfl rfl
  rw [List.append_assoc (evArea fullPanel ++ evCounters 0 0 ++ evCmd (ramOp isA))]
  exact foldl_see_append (foldl_see_openFullPanel o isA h)
    (sent.trans (o.foldl_dataByte_filling isA bytes [] (o.bank isA) (by simpa using hl)))

/-- A whole full-panel write (42_ram_addressing.md R182). -/
theorem foldl_see_fullPanelWrite (o : Observer) (isA : Bool) (bytes : List Byte) (h : o.lost = false)
    (hl : bytes.length ≤ 4000) :
    (evRamWrite (ramOp isA) fullPanel bytes).foldl Observer.see o =
      (o.filling isA bytes ((o.bank isA).writeAll 0 bytes)).wirePin .csN .high := by
  have frame : evRamWrite (ramOp isA) fullPanel bytes =
      evArea fullPanel ++ evCounters 0 0 ++ evCmd (ramOp isA) ++ evPin .csN .low ++ evPin .dc .high ++ evBytes bytes
        ++ evPin .csN .high := by
    simp [evRamWrite, evDat, fullPanel]
  rw [frame]
  exact foldl_see_append (foldl_see_fullPanelBytes o isA bytes h hl) rfl

/-- What a full-panel write of 4000 bytes leaves: the data in its bank, the other bank, and the cursor at the origin (R77). -/
theorem fullPanelWrite_fills (o : Observer) (isA : Bool) {data : List Byte} (h : o.lost = false) (hl : data.length = 4000) :
    let v := (evRamWrite (ramOp isA) fullPanel data).foldl Observer.see o
    (∀ i, i < 4000 → (v.bank isA).read i = data[i]?) ∧ v.bank (!isA) = o.bank (!isA)
      ∧ v.cx = some 0 ∧ v.cy = some 0 := by
  have banks : ∀ isA', ((o.filling isA data ((o.bank isA).writeAll 0 data)).wirePin .csN .high).bank isA' = _ :=
    fun isA' => o.bank_filling isA isA' data _
  simp only [foldl_see_fullPanelWrite o isA data h hl.le, banks, if_true, Bool.not_eq_self, if_false]
  refine ⟨fun i hi => ?_, trivial, ?_, ?_⟩
  · rw [Memory.read_writeAll, if_pos (by omega), Nat.sub_zero]
  · exact congrArg (fun n => some (n % 16)) hl
  · exact congrArg (fun n => some (n % 4000 / 16)) hl

/-- Settles O52: both banks, each by the command that writes it. -/
theorem fullPanelWriteFillsTheBank : Obligations.FullPanelWriteFillsTheBank := by
  unfold Obligations.FullPanelWriteFillsTheBank
  intro o data h hl
  obtain ⟨readA, otherA, xA, yA⟩ := fullPanelWrite_fills o true h hl
  obtain ⟨readC, otherC, xC, yC⟩ := fullPanelWrite_fills o false h hl
  exact ⟨readA, readC, otherA, otherC, xA, yA, xC, yC⟩

/-- Settles O56: an error to a byte delivers nothing, one to the closing PinSet only puts the view in doubt. -/
theorem cutFrameDeliversItsAcceptedBytes : Obligations.CutFrameDeliversItsAcceptedBytes := by
  unfold Obligations.CutFrameDeliversItsAcceptedBytes
  intro o cut closed op b data e h hop hl written bank other hcut hclosed
  obtain ⟨isA, rfl⟩ : ∃ isA, op = ramOp isA := hop.elim (⟨true, ·⟩) (⟨false, ·⟩)
  have sent : written.foldl Observer.see o = _ := foldl_see_fullPanelBytes o isA data h hl
  rw [foldl_see_append sent rfl] at hcut hclosed
  have hbank : ∀ v, bank v = v.bank isA := by cases isA <;> exact fun _ => rfl
  have hother : ∀ v, other v = v.bank (!isA) := by cases isA <;> exact fun _ => rfl
  have banks : ∀ isA', cut.bank isA' = if isA' = isA then (o.bank isA).writeAll 0 data else o.bank isA' :=
    fun isA' => hcut ▸ o.bank_filling isA isA' data _
  have read : ∀ i, (bank cut).read i = if i < data.length then data[i]? else (bank o).read i := by
    intro i
    rw [hbank, hbank, banks, if_pos rfl, Memory.read_writeAll]
    simp
  refine ⟨fun i hi => (read i).trans (if_pos hi), fun i hi => (read i).trans (if_neg hi.not_gt), ?_, ?_⟩
  · rw [hother, hother, banks, if_neg (by simp)]
  · subst hcut hclosed
    exact ⟨rfl, h, sent.symm, rfl, rfl, rfl, rfl, rfl, rfl, rfl, rfl, rfl, rfl, rfl⟩

end Sys2Proof.Machine
end

section
/-! O58 (spec/10_state.md R25 to R29, 43_lifecycle.md and 44_frame_ops.md, "State written"). The register writes of a stretch as
one change of the state: an operation's effect is the writes of its whole sequence, and doing again those already done changes
nothing. -/

namespace Sys2Proof.Machine

/-- The register writes of a sequence, all done. -/
def State.afterWrites (s : State) (items : List Item) : State :=
  { s with
    shadow := shadowAfter items s.shadow
    duc2Acc := duc2After items s.duc2Acc
    pstate := pstateAfter items s.pstate
    refresh := refreshAfter items s.refresh }

theorem State.afterWrites_append (s : State) (a b : List Item) :
    s.afterWrites (a ++ b) = (s.afterWrites a).afterWrites b := by
  simp [State.afterWrites]

theorem State.afterWrites_writesOf (s : State) (items : List Item) : s.afterWrites (writesOf items) = s.afterWrites items := by
  induction items generalizing s with
  | nil => rfl
  | cons item items ih =>
    cases item with
    | latch w => exact ih (s.latch w)
    | compose v => exact ih { s with duc2Acc := v }
    | setPower p => exact ih { s with pstate := p }
    | setRefresh m => exact ih { s with refresh := m }
    | issue _ | startPoll | finish => exact ih s

theorem pstateAfter_of_notMem {items : List Item} (h : ∀ p, .setPower p ∉ items) (p : PowerState) :
    pstateAfter items p = p := by
  induction items with
  | nil => rfl
  | cons item items ih =>
    simp only [List.mem_cons, not_or] at h
    cases item with
    | setPower q => exact absurd rfl (h q).1
    | _ => exact ih fun q => (h q).2

theorem refreshAfter_of_notMem {items : List Item} (h : ∀ m, .setRefresh m ∉ items) (m : RefreshMode) :
    refreshAfter items m = m := by
  induction items with
  | nil => rfl
  | cons item items ih =>
    simp only [List.mem_cons, not_or] at h
    cases item with
    | setRefresh k => exact absurd rfl (h k).1
    | _ => exact ih fun k => (h k).2

/-- The last write of DUC2_ACC stands, so doing the writes again changes nothing. -/
theorem duc2After_duc2After (items : List Item) (v : Byte) : duc2After items (duc2After items v) = duc2After items v := by
  have setOrKept : (∀ v v', duc2After items v = duc2After items v') ∨ ∀ v, duc2After items v = v := by
    induction items with
    | nil => exact .inr fun _ => rfl
    | cons item items ih =>
      cases item with
      | compose w => exact .inl fun _ _ => rfl
      | _ => exact ih
  obtain h | h := setOrKept
  · exact h _ _
  · exact h _

/-- `f` reads a part of the shadow registers that each shadow write sets as a whole or leaves alone. -/
def SetOrKept {β : Type} (f : Shadow → β) : Prop :=
  ∀ w, (∀ sh sh' : Shadow, f (sh.put w) = f (sh'.put w)) ∨ ∀ sh : Shadow, f (sh.put w) = f sh

/-- The last write of such a part stands, so doing the writes again changes nothing there. -/
theorem SetOrKept.shadowAfter_shadowAfter {β : Type} {f : Shadow → β} (hf : SetOrKept f) (items : List Item) (sh : Shadow) :
    f (shadowAfter items (shadowAfter items sh)) = f (shadowAfter items sh) := by
  have setOrKept : (∀ sh sh', f (shadowAfter items sh) = f (shadowAfter items sh'))
      ∨ ∀ sh, f (shadowAfter items sh) = f sh := by
    induction items with
    | nil => exact .inr fun _ => rfl
    | cons item items ih =>
      cases item with
      | latch w =>
        obtain h | h := ih
        · exact .inl fun _ _ => h _ _
        · exact (hf w).imp (fun hw sh sh' => (h _).trans ((hw sh sh').trans (h _).symm)) fun hw sh => (h _).trans (hw sh)
      | _ => exact ih
  obtain h | h := setOrKept
  · exact h _ _
  · exact h _

theorem shadow_eq_of_parts {a b : Shadow} (hx : (a.winXS, a.winXE) = (b.winXS, b.winXE))
    (hy : (a.winYS, a.winYE) = (b.winYS, b.winYE)) (hcx : a.curX = b.curX) (hcy : a.curY = b.curY) : a = b := by
  cases a
  cases b
  simp_all

theorem shadowAfter_shadowAfter (items : List Item) (sh : Shadow) :
    shadowAfter items (shadowAfter items sh) = shadowAfter items sh := by
  have windowX : SetOrKept fun sh => (sh.winXS, sh.winXE) := fun w => by cases w <;> simp [Shadow.put]
  have windowY : SetOrKept fun sh => (sh.winYS, sh.winYE) := fun w => by cases w <;> simp [Shadow.put]
  have counterX : SetOrKept Shadow.curX := fun w => by cases w <;> simp [Shadow.put]
  have counterY : SetOrKept Shadow.curY := fun w => by cases w <;> simp [Shadow.put]
  exact shadow_eq_of_parts (windowX.shadowAfter_shadowAfter items sh) (windowY.shadowAfter_shadowAfter items sh)
    (counterX.shadowAfter_shadowAfter items sh) (counterY.shadowAfter_shadowAfter items sh)

/-- What has been done of a sequence already stands in the registers. -/
theorem State.afterWrites_written {s : State} {done : List Item} (hw : s.written done)
    (hp : ∀ p, .setPower p ∉ done) (hm : ∀ m, .setRefresh m ∉ done) : s.afterWrites done = s := by
  obtain ⟨sh, v, hshadow, hduc⟩ := hw
  have shadow : shadowAfter done s.shadow = s.shadow := by rw [hshadow, shadowAfter_shadowAfter]
  have duc2 : duc2After done s.duc2Acc = s.duc2Acc := by rw [hduc, duc2After_duc2After]
  simp only [State.afterWrites, shadow, duc2, pstateAfter_of_notMem hp, refreshAfter_of_notMem hm]

theorem usesDuc2_iff (rev : Rev) : (profileOf rev).usesDuc2 = true ↔ rev = .v4 := by
  cases rev <;> decide

/-- An operation's effect is what the writes of its sequence leave; SET_LUT writes REFRESH on a profile with LUT support. -/
theorem operationEffect_eq_afterWrites {i : Instr} (hb : i.isBus = false) {s : State}
    (hl : ∀ m, i = .setLut m → (profileOf s.rev).supportsLut = true) :
    operationEffect i s = s.afterWrites (sequenceOf i s) := by
  rw [← State.afterWrites_writesOf, writesOf_sequenceOf hb]
  cases i with
  | init | waitIdle | updateColorFrame _ _ | updateAchromaticFrame _ | updateChromaticFrame _ | setBackgroundColor _
  | getBackgroundColor | getWidth | getHeight => rfl
  | setLut m =>
    simp only [operationWrites, hl m rfl, if_true]
    rfl
  | updateFrame _ | updatePartialFrame _ _ _ _ _ | clearFrame =>
    simp only [operationWrites]
    split <;> rfl
  | sleep | displayFrame =>
    simp only [operationWrites, operationEffect, usesDuc2_iff]
    split <;> rfl
  | updateAndDisplayFrame a =>
    simp only [operationWrites, operationEffect, usesDuc2_iff]
    split <;> split <;> rfl
  | _ => cases hb

theorem operationEffect_ended (i : Instr) (s : State) (evs : List Event) (pins : Pins) (more : List Move) (code : Status) :
    operationEffect i ((s.after evs pins more).ended code) = ((operationEffect i s).after evs pins more).ended code := by
  cases i <;> rfl

end Sys2Proof.Machine
end

section
/-! O58 (spec/10_state.md R36, 20_memory.md R69, 40_framer.md R122, R130). From wherever an operation waits, what is left of its
sequence runs to its completion when its answers are all Ok and idle. -/

namespace Sys2Proof.Machine

/-! The end of a sequence. -/

theorem delaysInside_right {a b : List Item} (h : delaysInside (a ++ b)) : delaysInside b := by
  induction a with
  | nil => exact h
  | cons x a ih =>
    cases x with
    | issue t =>
      cases t with
      | delay us => exact ih h.2
      | _ => exact ih h
    | _ => exact ih h

/-- An element that neither completes the operation nor delays. -/
def Item.isStraight : Item → Bool
  | .finish | .issue (.delay _) => false
  | _ => true

/-- A stretch that neither completes the operation nor delays. -/
def Straight (items : List Item) : Prop := items.all Item.isStraight = true

theorem Straight.finish_notMem {items : List Item} (h : Straight items) : .finish ∉ items :=
  fun hm => Bool.false_ne_true (List.all_eq_true.mp h _ hm)

theorem Straight.delaysInside {items : List Item} (h : Straight items) : delaysInside items :=
  delaysInside_of_none fun _ hm => Bool.false_ne_true (List.all_eq_true.mp h _ hm)

@[simp] theorem straight_append (a b : List Item) : Straight (a ++ b) ↔ Straight a ∧ Straight b := by
  simp [Straight]
@[simp] theorem straight_nil : Straight [] := rfl
@[simp] theorem straight_latch (w : ShadowWrite) (a : List Item) : Straight (.latch w :: a) ↔ Straight a := .rfl
@[simp] theorem straight_compose (v : Byte) (a : List Item) : Straight (.compose v :: a) ↔ Straight a := .rfl
@[simp] theorem straight_setPower (p : PowerState) (a : List Item) : Straight (.setPower p :: a) ↔ Straight a := .rfl
@[simp] theorem straight_setRefresh (m : RefreshMode) (a : List Item) : Straight (.setRefresh m :: a) ↔ Straight a := .rfl
@[simp] theorem straight_ite {p : Prop} [Decidable p] {a : List Item} (b : List Item) :
    Straight (if p then a else b) ↔ (p → Straight a) ∧ (¬p → Straight b) := by
  split <;> simp_all
@[simp] theorem straight_waitUntilIdle : Straight waitUntilIdle := rfl
@[simp] theorem straight_frame (dcl : Level) (bytes : List Byte) : Straight (frame dcl bytes) := by
  simp [Straight, frame, Item.isStraight]
@[simp] theorem straight_sendCommand (op : Byte) : Straight (sendCommand op) := straight_frame _ _
@[simp] theorem straight_sendCommandWithData (op : Byte) (bytes : List Byte) :
    Straight (sendCommandWithData op bytes) := by
  simp [sendCommandWithData, sendData]
@[simp] theorem straight_setRamArea (r : Rect) : Straight (setRamArea r) := by
  simp [setRamArea, setRamXWindow, setRamYWindow]
@[simp] theorem straight_setRamAddressCounters (x y : Nat) : Straight (setRamAddressCounters x y) := by
  simp [setRamAddressCounters, setRamXCounter, setRamYCounter]
@[simp] theorem straight_ramWriteA (r : Rect) (bytes : List Byte) : Straight (ramWriteA r bytes) := by
  simp [ramWriteA, openWindow, writeRamBw]
@[simp] theorem straight_ramWriteC (r : Rect) (bytes : List Byte) : Straight (ramWriteC r bytes) := by
  simp [ramWriteC, openWindow, writeRamRed]
@[simp] theorem straight_updateFrameBody (a : List Byte) (s : State) : Straight (updateFrameBody a s) := by
  simp [updateFrameBody]
@[simp] theorem straight_displayBody (s : State) : Straight (displayBody s) := by
  simp [displayBody, displayUpdateControl2, masterActivation]

/-- Every operation but INIT is a straight stretch and its completion. -/
theorem sequence_straight {i : Instr} (hb : i.isBus = false) (hr : isRegisterOp i = false) (hi : i ≠ .init) (s : State) :
    ∃ body : List Item, sequenceOf i s = body ++ [.finish] ∧ Straight body := by
  cases i with
  | init => exact absurd rfl hi
  | sleep =>
    exact ⟨_, List.append_cons _ (Item.setPower .sleeping) [Item.finish],
      by simp [sleepActivation, displayUpdateControl2, masterActivation, deepSleepMode]⟩
  | setLut m =>
    simp only [sequenceOf]
    split
    · exact ⟨_, List.append_cons _ (Item.setRefresh m) [Item.finish], by simp [writeLut]⟩
    · exact ⟨[], rfl, straight_nil⟩
  | waitIdle | updateFrame _ | updateAchromaticFrame _ | updateChromaticFrame _ | displayFrame
  | updateAndDisplayFrame _ => exact ⟨_, rfl, by simp⟩
  | updatePartialFrame x y w h a => exact ⟨_, rfl, by simp [updatePartialBody]⟩
  | updateColorFrame a b => exact ⟨_, rfl, by simp [updateColorBody]⟩
  | clearFrame => exact ⟨_, rfl, by simp [clearBody, clearPass]⟩
  | setBackgroundColor _ | getBackgroundColor | getWidth | getHeight => cases hr
  | _ => cases hb

/-- The reset pulse's delays stand before transactions to be answered, if the stretch after it has one. -/
theorem hardwareReset_inside (lowUs highUs : Nat) {items : List Item} (hs : Straight items) (ha : 0 < askedCount items) :
    .finish ∉ hardwareReset lowUs highUs ++ items ∧ delaysInside (hardwareReset lowUs highUs ++ items) :=
  ⟨by simp [hardwareReset, hs.finish_notMem], Nat.succ_pos _, ha, hs.delaysInside⟩

/-- A sequence completes at its end only, and each of its delays has a transaction to be answered after it. -/
theorem sequence_body {i : Instr} (hb : i.isBus = false) (hr : isRegisterOp i = false) (s : State) :
    ∃ body : List Item, sequenceOf i s = body ++ [.finish] ∧ .finish ∉ body ∧ delaysInside body := by
  by_cases hi : i = .init
  · subst hi
    refine ⟨_, List.append_cons _ (Item.setPower .ready) [Item.finish], ?_⟩
    simp only [List.append_assoc]
    refine hardwareReset_inside _ _ ?_ ?_
    · simp [swReset, driverOutputControl, dataEntryMode, borderControl, temperatureSensor, displayUpdateControl1]
    · simp [waitUntilIdle]
  · obtain ⟨body, hbody, hs⟩ := sequence_straight hb hr hi s
    exact ⟨body, hbody, hs.finish_notMem, hs.delaysInside⟩

/-- From a transaction of its sequence on, an operation completes at the end only, with no delay left without a transaction
to be answered after it. -/
theorem sequence_rest {i : Instr} (hb : i.isBus = false) (hr : isRegisterOp i = false) {s : State} {done rest : List Item}
    {y : Transaction} (h : sequenceOf i s = done ++ .issue y :: rest) :
    ∃ left : List Item, rest = left ++ [.finish] ∧ .finish ∉ left ∧ delaysInside (.issue y :: left) := by
  obtain ⟨body, hbody, hf, hd⟩ := sequence_body hb hr s
  rw [h] at hbody
  obtain rfl | ⟨left, z, rfl⟩ := List.eq_nil_or_concat' rest
  · cases List.append_inj_right' hbody rfl
  · rw [← List.cons_append, ← List.append_assoc] at hbody
    obtain ⟨rfl, hz⟩ := List.append_inj' hbody rfl
    cases hz
    exact ⟨left, rfl, fun hm => hf (by simp [hm]), delaysInside_right hd⟩

/-! Going on. -/

/-- An answer is taken in the same way whether or not its transaction has been pending. -/
theorem settle_withPend (t : Transaction) (rest : List Item) (s : State) (p : Option Transaction) :
    settle t rest { s with pend := p } = settle t rest s := by
  have answer : ∀ m env, moved m t rest { s with env := env, pend := p } = moved m t rest { s with env := env } := by
    intro m env
    cases m with
    | ok l => cases t <;> rfl
    | _ => rfl
  cases t with
  | delay us =>
    simp only [settle]
    split <;> rfl
  | _ =>
    simp only [settle]
    split
    · rfl
    · exact answer _ _

theorem run_issue_withPend (t : Transaction) (rest : List Item) (s : State) (p : Option Transaction) :
    run (.issue t :: rest) { s with pend := p } = run (.issue t :: rest) s := by
  rw [run_cons, run_cons, perform, perform, settle_withPend]

/-- An operation that waits and then hears Ok and idle to its end. -/
theorem resume_idle {s : State} {t : Transaction} {left : List Item} {more : List Move} (hp : s.pend = some t)
    (hseq : s.seq = left ++ [.finish]) (hf : .finish ∉ left) (hd : delaysInside (.issue t :: left))
    (hidle : s.hearsIdle (askedCount (.issue t :: s.seq)) more) :
    resume s = ((s.afterWrites s.seq).after ((t :: transactionsOf s.seq).map idleEvent)
      (pinsAfter (.issue t :: s.seq) s.pins) more).ended .ok := by
  have asked : askedCount (.issue t :: s.seq) = askedCount (.issue t :: left) := by simp [hseq, askedCount]
  have writes : s.afterWrites s.seq = s.afterWrites left := by rw [hseq, State.afterWrites_append]; rfl
  have issued : transactionsOf s.seq = transactionsOf left := by simp [hseq]
  have pins : pinsAfter (.issue t :: s.seq) s.pins = pinsAfter (.issue t :: left) s.pins := by
    rw [hseq, ← List.cons_append, pinsAfter_append]
    rfl
  have answered := run_idle (.issue t :: left) [.finish] (by simp [hf]) hd { s with seq := [], pend := none } more
    (asked ▸ hidle) rfl
  rw [resume_of_pend hp, ← run_issue_withPend t s.seq { s with seq := [] } none, writes, issued, pins, hseq,
    ← List.cons_append, answered]
  rfl

/-- What the registers hold of the sequence so far, and the writes of what is left of it, make the operation's effect. -/
theorem afterWrites_left {i : Instr} (hb : i.isBus = false) (hr : isRegisterOp i = false) {s : State}
    {done rest : List Item} {y : Transaction} (hplace : sequenceOf i s = done ++ .issue y :: rest) (hw : s.written done) :
    s.afterWrites (.issue y :: rest) = operationEffect i s := by
  obtain ⟨noPower, noRefresh⟩ := (modesLast_sequenceOf hb hr s).before_issue hplace
  have lut : ∀ m, i = .setLut m → (profileOf s.rev).supportsLut = true := by
    rintro m rfl
    by_contra hl
    have issued : .issue y ∈ sequenceOf (.setLut m) s := by simp [hplace]
    simp [sequenceOf, hl] at issued
  rw [operationEffect_eq_afterWrites hb lut, hplace, State.afterWrites_append,
    State.afterWrites_written hw noPower noRefresh]

/-- Settles O58: what is left is run to its end, and with what the registers hold of the part before it, its writes are the
whole sequence's. -/
theorem resumedOperationCompletes : Obligations.ResumedOperationCompletes := by
  unfold Obligations.ResumedOperationCompletes
  intro i s t more h ha hi hp hidle
  obtain ⟨-, htrack, -⟩ := h
  obtain ⟨j, done, hj, hr, hw, hplace⟩ := htrack ha
  obtain rfl := hi.unique hj
  have hb := hi.isBus
  obtain ⟨x, hx, -, hs⟩ | ⟨n, hx, hs, hhead, -⟩ := hplace <;> obtain rfl := Option.some.inj (hp.symm.trans hx)
  · obtain ⟨left, hleft, hf, hd⟩ := sequence_rest hb hr hs
    refine ⟨⟨transactionsOf done, .inl (by simp [hs])⟩, ?_⟩
    rw [step_of_active ha, resume_idle hp hleft hf hd hidle, operationEffect_ended, ← afterWrites_left hb hr hs hw]
    rfl
  · obtain ⟨rest, hrest⟩ := List.head?_eq_some_iff.mp hhead
    have hs' := hrest ▸ hs
    obtain ⟨left, rfl, hf, hd⟩ := sequence_rest hb hr hs'
    refine ⟨⟨transactionsOf done, .inr ⟨rfl, by simp [hs]⟩⟩, ?_⟩
    rw [step_of_active ha, resume_idle hp (left := .issue .pinGet :: left) hrest (by simp [hf]) ⟨Nat.succ_pos _, hd⟩ hidle,
      operationEffect_ended, ← afterWrites_left hb hr hs' hw, ← hrest]

end Sys2Proof.Machine
end

section
/-! O1 to O4 (spec/30_encoding.md). A host request is its descriptor and its streams, so decoding an encoded one is selecting
by OP and taking the streams off; a bus command's payload has one shape for each opcode, and the shape says what its bytes are. -/

namespace Sys2Proof

/-! Host requests: the round trip (R90, R92, R97). -/

/-- An encoded descriptor is decoded by its fields, its LEN fields being two bytes each. -/
theorem decodeRequest_descriptorBytes (op imm8 : Byte) (x y w h : Half) (lenA lenB : Nat) (rest : List Byte) :
    decodeRequest (descriptorBytes op imm8 x y w h lenA lenB ++ rest) =
      decodeDescriptor { op := op, imm8 := imm8, rsvd := 0#16, x := x, y := y, w := w, h := h,
                         lenA := joinBytes (lo8 lenA) (hi8 lenA), lenB := joinBytes (lo8 lenB) (hi8 lenB) } rest := by
  rw [decodeRequest, readDescriptor_descriptorBytes]

/-- A stream is taken off whole when its length is the one that the LEN field declares. -/
theorem takeStream_of_fits {a : List Byte} (ha : bufferFits a = true) {len : Half}
    (hlen : len = joinBytes (lo8 a.length) (hi8 a.length)) (rest : List Byte) :
    takeStream len.toNat (a ++ rest) = .ok (a, rest) := by
  rw [hlen, toNat_joinBytes _ (of_decide_eq_true ha), takeStream_append]

theorem withStreamA_of_fits {a : List Byte} (ha : bufferFits a = true) {d : Descriptor}
    (hlen : d.lenA = joinBytes (lo8 a.length) (hi8 a.length)) (mk : List Byte → Instr) (rest : List Byte) :
    withStreamA d (a ++ rest) mk = .ok (mk a, rest) := by
  rw [withStreamA, takeStream_of_fits ha hlen]

theorem withStreamsAB_of_fits {a b : List Byte} (ha : bufferFits a = true) (hb : bufferFits b = true) {d : Descriptor}
    (hlenA : d.lenA = joinBytes (lo8 a.length) (hi8 a.length)) (hlenB : d.lenB = joinBytes (lo8 b.length) (hi8 b.length))
    (mk : List Byte → List Byte → Instr) (rest : List Byte) :
    withStreamsAB d (a ++ (b ++ rest)) mk = .ok (mk a b, rest) := by
  simp only [withStreamsAB, takeStream_of_fits ha hlenA, takeStream_of_fits hb hlenB]

/-- The encoding of an operation without a stream is decoded by OP and IMM8 alone. -/
theorem decodeRequest_plainDescriptor (op imm8 : Byte) (rest : List Byte) :
    decodeRequest (plainDescriptor op imm8 ++ rest) = decodeDescriptor
      { op := op, imm8 := imm8, rsvd := 0#16, x := 0#16, y := 0#16, w := 0#16, h := 0#16, lenA := 0#16, lenB := 0#16 }
      rest :=
  decodeRequest_descriptorBytes ..

/-- A request with stream A alone decodes to the operation that its OP selects, whatever rectangle it carries. -/
theorem decodeRequest_streamA {a : List Byte} (ha : bufferFits a = true) {op : Byte} {x y w h : Half}
    {mk : List Byte → Instr}
    (selects : ∀ (d : Descriptor) (stream : List Byte), d.op = op → d.x = x → d.y = y → d.w = w → d.h = h →
      decodeDescriptor d stream = withStreamA d stream mk) (rest : List Byte) :
    decodeRequest (descriptorBytes op 0#8 x y w h a.length 0 ++ a ++ rest) = .ok (mk a, rest) := by
  rw [List.append_assoc, decodeRequest_descriptorBytes, selects _ _ rfl rfl rfl rfl rfl, withStreamA_of_fits ha rfl]

/-- Settles O1, by operation: those without a stream are decoded from OP and IMM8, the others take off the streams that
their LEN fields declare. -/
theorem requestRoundTrip : Obligations.RequestRoundTrip := by
  unfold Obligations.RequestRoundTrip
  intro i rest hb hw
  cases i with
  | init | sleep | waitIdle | displayFrame | clearFrame | setBackgroundColor | getBackgroundColor | getWidth
  | getHeight => exact decodeRequest_plainDescriptor ..
  | setLut mode => cases mode <;> exact decodeRequest_plainDescriptor ..
  | updateFrame | updatePartialFrame | updateAchromaticFrame | updateChromaticFrame | updateAndDisplayFrame =>
    refine decodeRequest_streamA hw ?_ rest
    rintro ⟨⟩ stream rfl rfl rfl rfl rfl
    rfl
  | updateColorFrame a b =>
    obtain ⟨ha, hb⟩ := Bool.and_eq_true_iff.mp hw
    rw [encode, List.append_assoc, List.append_assoc, decodeRequest_descriptorBytes,
      decodeDescriptor_updateColorFrame _ rfl, withStreamsAB_of_fits ha hb rfl rfl]
  | _ => cases hb

/-! Bits that are not read (R94, R95). -/

theorem lutModeOf_congr {a b : Byte} (h : a.toNat % 2 = b.toNat % 2) : lutModeOf a = lutModeOf b := by
  rw [lutModeOf, lutModeOf, h]

theorem withStreamA_congr {d d' : Descriptor} (h : d.lenA = d'.lenA) (stream : List Byte) (mk : List Byte → Instr) :
    withStreamA d stream mk = withStreamA d' stream mk := by
  rw [withStreamA, withStreamA, h]

theorem withStreamsAB_congr {d d' : Descriptor} (hA : d.lenA = d'.lenA) (hB : d.lenB = d'.lenB) (stream : List Byte)
    (mk : List Byte → List Byte → Instr) : withStreamsAB d stream mk = withStreamsAB d' stream mk := by
  rw [withStreamsAB, withStreamsAB, hA, hB]

/-- Settles O3, by OP: each operation's decoding reads only the fields that the premises say agree. -/
theorem ignoredBitsChangeNothing : Obligations.IgnoredBitsChangeNothing := by
  unfold Obligations.IgnoredBitsChangeNothing
  intro d d' stream hop hmode hcolor hrect hA hB
  unfold decodeDescriptor
  rw [← hop]
  split
  case h_3 h => -- SET_LUT
    rw [lutModeOf_congr (hmode h)]
  case h_6 h => -- UPDATE_PARTIAL_FRAME
    obtain ⟨hx, hy, hw, hh⟩ := hrect h
    rw [withStreamA_congr (hA (by simp [h])), hx, hy, hw, hh]
  case h_7 h => -- UPDATE_COLOR_FRAME
    exact withStreamsAB_congr (hA (by simp [h])) (hB h) ..
  case h_5 h | h_8 h | h_9 h | h_11 h => -- the others with stream A
    exact withStreamA_congr (hA (by simp [h])) ..
  case h_13 h => -- SET_BACKGROUND_COLOR
    rw [hcolor h]
  all_goals rfl

/-! Bus commands (R100, R102). -/

/-- The length and the three inverted flags of 0x01 read back (41_encoders.md R163). -/
theorem decodeDriverOutput_driverOutput (n : Half) (linear firstG0 increasing : Bool) :
    threeBytes 0x01#8 decodeDriverOutput (Machine.driverOutput n.toNat linear firstG0 increasing) =
      .ok (.cmdDriverOutputControl n linear firstG0 increasing) := by
  simp only [Machine.driverOutput, threeBytes, decodeDriverOutput, joinBytes_of_half]
  cases linear <;> cases firstG0 <;> cases increasing <;> rfl

/-- Three bits are the flags that they are read as: nothing is lost under bits 7:3 zero. -/
theorem flags_of_lt : ∀ {flags : Byte}, flags.toNat < 8 →
    BitVec.ofNat 8 (Machine.invertedFlag (decide (flags.toNat % 2 = 0))
      + 2 * Machine.invertedFlag (decide (flags.toNat / 2 % 2 = 0))
      + 4 * Machine.invertedFlag (decide (flags.toNat / 4 % 2 = 0))) = flags := by
  decide

theorem decodeDriverOutput_ok {a b flags : Byte} {c : Instr} (h : decodeDriverOutput a b flags = .ok c) :
    encode c = [0x01#8, a, b, flags] ∧ c.isBus = true ∧ c.wellFormed = true := by
  unfold decodeDriverOutput at h
  split at h
  case isTrue hf =>
    cases h
    exact ⟨by simp only [encode, Machine.driverOutput, lo8_joinBytes, hi8_joinBytes, flags_of_lt hf], rfl, rfl⟩
  case isFalse => cases h

/-- The increment mode and the direction of 0x11 read back (41_encoders.md R165). -/
theorem decodeDataEntry_dataEntry : ∀ (m : BitVec 2) (yMajor : Bool),
    decodeDataEntry (Machine.dataEntry m.toNat yMajor.toNat) = .ok (.cmdDataEntryMode m yMajor) := by
  decide

/-- Three bits are the increment mode and the direction that they are read as. -/
theorem dataEntry_of_lt : ∀ {b : Byte}, b.toNat < 8 →
    Machine.dataEntry (BitVec.ofNat 2 b.toNat).toNat (decide (b.toNat / 4 % 2 = 1)).toNat = b := by
  decide

theorem decodeDataEntry_ok {b : Byte} {c : Instr} (h : decodeDataEntry b = .ok c) :
    encode c = [0x11#8, b] ∧ c.isBus = true ∧ c.wellFormed = true := by
  unfold decodeDataEntry at h
  split at h
  case isTrue hb =>
    cases h
    exact ⟨by rw [encode, dataEntry_of_lt hb], rfl, rfl⟩
  case isFalse => cases h

/-- A byte string is taken exactly when it makes a data frame (R103). -/
theorem decodeString_eq_ok {op : Byte} {mk : List Byte → Instr} {payload : List Byte} {c : Instr} :
    decodeString op mk payload = .ok c ↔ payloadFits payload = true ∧ mk payload = c := by
  cases payload <;> simp [decodeString, payloadFits]

/-! What each shape of payload says of the bytes that it takes (R100). -/

theorem noPayload_ok {op : Byte} {c c' : Instr} {payload : List Byte} (h : noPayload op c payload = .ok c') :
    payload = [] ∧ c = c' := by
  unfold noPayload at h
  split at h <;> cases h
  exact ⟨rfl, rfl⟩

theorem oneByte_ok {op : Byte} {read : Byte → Except DecodeError Instr} {payload : List Byte} {c : Instr}
    (h : oneByte op read payload = .ok c) : ∃ a, payload = [a] ∧ read a = .ok c := by
  unfold oneByte at h
  split at h
  · exact ⟨_, rfl, h⟩
  · cases h

theorem twoBytes_ok {op : Byte} {read : Byte → Byte → Except DecodeError Instr} {payload : List Byte} {c : Instr}
    (h : twoBytes op read payload = .ok c) : ∃ a b, payload = [a, b] ∧ read a b = .ok c := by
  unfold twoBytes at h
  split at h
  · exact ⟨_, _, rfl, h⟩
  · cases h

theorem threeBytes_ok {op : Byte} {read : Byte → Byte → Byte → Except DecodeError Instr} {payload : List Byte}
    {c : Instr} (h : threeBytes op read payload = .ok c) : ∃ a b d, payload = [a, b, d] ∧ read a b d = .ok c := by
  unfold threeBytes at h
  split at h
  · exact ⟨_, _, _, rfl, h⟩
  · cases h

theorem fourBytes_ok {op : Byte} {read : Byte → Byte → Byte → Byte → Except DecodeError Instr} {payload : List Byte}
    {c : Instr} (h : fourBytes op read payload = .ok c) :
    ∃ a b d e, payload = [a, b, d, e] ∧ read a b d e = .ok c := by
  unfold fourBytes at h
  split at h
  · exact ⟨_, _, _, _, rfl, h⟩
  · cases h

theorem fixedPayload_ok {op : Byte} {bytes : List Byte} {c c' : Instr} {payload : List Byte}
    (h : fixedPayload op bytes c payload = .ok c') : payload = bytes ∧ c = c' := by
  unfold fixedPayload at h
  split at h <;> cases h
  exact ⟨‹_›, rfl⟩

theorem eq_ofNat_of_toNat {op : Byte} {n : Nat} (h : op.toNat = n) : op = BitVec.ofNat 8 n := by simp [← h]

/-- A payload that decodes is, behind its opcode byte, the encoding of the well-formed command that it decodes to. -/
theorem decodePayload_ok {op : Byte} {payload : List Byte} {c : Instr} (h : decodePayload op payload = .ok c) :
    encode c = op :: payload ∧ c.isBus = true ∧ c.wellFormed = true := by
  unfold decodePayload at h
  split at h
  case h_1 hop => -- 0x01
    obtain rfl := eq_ofNat_of_toNat hop
    obtain ⟨a, b, flags, rfl, h⟩ := threeBytes_ok h
    exact decodeDriverOutput_ok h
  case h_3 hop => -- 0x11
    obtain rfl := eq_ofNat_of_toNat hop
    obtain ⟨a, rfl, h⟩ := oneByte_ok h
    exact decodeDataEntry_ok h
  case h_2 hop | h_8 hop | h_12 hop | h_15 hop => -- 0x10, 0x22, 0x3C, 0x4E
    obtain rfl := eq_ofNat_of_toNat hop
    obtain ⟨a, rfl, h⟩ := oneByte_ok h
    cases h
    exact ⟨rfl, rfl, rfl⟩
  case h_4 hop | h_6 hop => -- 0x12, 0x20
    obtain rfl := eq_ofNat_of_toNat hop
    obtain ⟨rfl, rfl⟩ := noPayload_ok h
    exact ⟨rfl, rfl, rfl⟩
  case h_5 hop | h_7 hop => -- 0x18, 0x21
    obtain rfl := eq_ofNat_of_toNat hop
    obtain ⟨rfl, rfl⟩ := fixedPayload_ok h
    exact ⟨rfl, rfl, rfl⟩
  case h_9 hop | h_10 hop | h_11 hop => -- 0x24, 0x26, 0x32
    obtain rfl := eq_ofNat_of_toNat hop
    obtain ⟨hfits, rfl⟩ := decodeString_eq_ok.mp h
    exact ⟨rfl, rfl, hfits⟩
  case h_13 hop => -- 0x44
    obtain rfl := eq_ofNat_of_toNat hop
    obtain ⟨xs, xe, rfl, h⟩ := twoBytes_ok h
    cases h
    exact ⟨rfl, rfl, rfl⟩
  case h_14 hop => -- 0x45
    obtain rfl := eq_ofNat_of_toNat hop
    obtain ⟨a, b, d, e, rfl, h⟩ := fourBytes_ok h
    cases h
    exact ⟨by simp [encode], rfl, rfl⟩
  case h_16 hop => -- 0x4F
    obtain rfl := eq_ofNat_of_toNat hop
    obtain ⟨a, b, rfl, h⟩ := twoBytes_ok h
    cases h
    exact ⟨by simp [encode], rfl, rfl⟩
  case h_17 => cases h

theorem decodeCommand_encode {c : Instr} (hb : c.isBus = true) (hw : c.wellFormed = true) :
    decodeCommand (encode c) = .ok c := by
  cases c with
  | cmdDriverOutputControl => exact decodeDriverOutput_driverOutput ..
  | cmdDataEntryMode => exact decodeDataEntry_dataEntry ..
  | cmdWriteRamBw | cmdWriteRamRed | cmdWriteLut => exact decodeString_eq_ok.mpr ⟨hw, rfl⟩
  | cmdSetRamYWindow | cmdSetRamYCounter =>
    simp [encode, decodeCommand, decodePayload, fourBytes, twoBytes]
  | cmdDeepSleepMode | cmdSwReset | cmdTemperatureSensor | cmdMasterActivation | cmdDisplayUpdateControl1
  | cmdDisplayUpdateControl2 | cmdBorderWaveform | cmdSetRamXWindow | cmdSetRamXCounter => rfl
  | _ => cases hb

/-- Settles O2, by the opcodes of R100's table: the shape of each payload and the fixed bits that its decoder asks for leave
no bytes but the encoder's. -/
theorem commandBytesOneToOne : Obligations.CommandBytesOneToOne := by
  unfold Obligations.CommandBytesOneToOne
  refine ⟨fun c hb hw => decodeCommand_encode hb hw, fun bytes c h => ?_⟩
  cases bytes with
  | nil => cases h
  | cons op payload => exact decodePayload_ok h

/-! Words written out from the tables (R90, R93, R100). -/

/-- Settles O4: the decoders run on each word. -/
theorem specWordsDecode : Obligations.SpecWordsDecode := by
  unfold Obligations.SpecWordsDecode
  exact ⟨rfl, rfl, rfl, rfl, rfl, rfl, rfl⟩

end Sys2Proof
end

section
/-! O7, O8, O38 and O21 (spec/40_framer.md R122 to R124, R130, R131): one step at an engine that is idle, that is not answered,
that hears an error, or that hears a busy sample. -/

namespace Sys2Proof.Machine

/-! No move from outside. -/

/-- Settles O7: the idle engine takes the host's next move, and there is none. -/
theorem idleEngineWaits : Obligations.IdleEngineWaits := by
  unfold Obligations.IdleEngineWaits
  intro s ha hh
  rw [step_of_idle ha, hostTurn, hh]

/-- An engine that waits already is left as it is when it takes up SEQ and waits again. -/
theorem State.await_again {s : State} {t : Transaction} (hp : s.pend = some t) : { s with seq := [] }.await t s.seq = s := by
  cases s
  cases hp
  simp [State.await]

/-- Settles O8: the pending transaction is not answered, so the engine waits for it again. -/
theorem silentTransportKeepsTheEngineWaiting : Obligations.SilentTransportKeepsTheEngineWaiting := by
  unfold Obligations.SilentTransportKeepsTheEngineWaiting
  intro s t ha hp hasked hscript hloop
  have silent : s.env.next = none := (Env.next_none_iff s.env).mpr ⟨hscript, hloop⟩
  rw [step_of_active ha, resume_of_pend hp, run_cons, perform, settle_asked hasked]
  simp only [silent]
  exact congrArg _ (State.await_again hp)

/-! An error. -/

theorem isPowerRequest_iff_mem (req : Option Request) :
    isPowerRequest req = true ↔ req.map Request.op ∈ [some 0x01#8, some 0x02#8] := by
  simp [isPowerRequest]

/-- PSTATE falls for INIT and SLEEP when the transport fails or the panel stays busy (spec/10_state.md R24,
spec/60_exceptions.md R252). -/
theorem powerAfter_of_failure {code : Status} (hc : code = .busError ∨ code = .panelTimeout) (req : Option Request)
    (p : PowerState) :
    powerAfter req code p = if req.map Request.op ∈ [some 0x01#8, some 0x02#8] then .uninitialized else p := by
  have failure : (code == .busError || code == .panelTimeout) = true := by simpa using hc
  simp only [powerAfter, failsPower, failure, Bool.and_true, isPowerRequest_iff_mem]

/-- An error in answer to a transaction ends the operation at once (spec/60_exceptions.md R253). -/
theorem run_issue_err {s : State} {t : Transaction} (hasked : t.isAsked = true) {e : Nat} {more : List Move}
    (hs : s.env.script = .err e :: more) (rest : List Item) :
    run (.issue t :: rest) s = .stop ((s.after [⟨t, .err e⟩] s.pins more).raise .busError e) := by
  rw [run_cons, perform, settle_of_script hasked rest hs]
  rfl

/-- Settles O38: the pending transaction is answered by the error, and the exception is all that changes. -/
theorem transportErrorChangesNothingElse : Obligations.TransportErrorChangesNothingElse := by
  unfold Obligations.TransportErrorChangesNothingElse
  intro s t e more ha hp hasked hs
  rw [step_of_active ha, resume_of_pend hp, run_issue_err (s := { s with seq := [] }) hasked hs,
    ← powerAfter_of_failure (.inl rfl)]
  rfl

/-! A busy sample. -/

/-- The state that has heard a busy sample, and counted it in POLLS. -/
def State.countBusy (s : State) (env : Env) : State :=
  { s with env := env, trace := s.trace ++ evSample .high, pend := none, polls := some (s.polls.getD 0 + 1) }

theorem limitReached_iff (limit : Option Nat) (polls : Nat) :
    limitReached limit polls = true ↔ ∃ n, limit = some n ∧ n ≤ polls := by
  cases limit <;> simp [limitReached]

theorem settle_pinGet_busy {s : State} {env : Env} (h : s.env.next = some (.ok .high, env)) (rest : List Item) :
    settle .pinGet rest s = busySample rest (s.countBusy env) := by
  have busy : isBusy s.rev .high = true := (isBusy_iff s.rev .high).mpr rfl
  simp only [settle, h, moved, answeredOk, sampled, State.record_rev, busy]
  rfl

section BusySample

variable {s : State} {env : Env} (h : s.env.next = some (.ok .high, env)) (rest : List Item)

include h

/-- The busy sample that reaches the deadline raises PANEL_TIMEOUT (spec/40_framer.md R130, R131). -/
theorem run_issue_busy_limit (hl : ∃ n, s.params.busyPollLimit = some n ∧ n ≤ s.polls.getD 0 + 1) :
    run (.issue .pinGet :: rest) s = .stop ((s.countBusy env).raise .panelTimeout 0) := by
  have reached : limitReached (s.countBusy env).params.busyPollLimit ((s.countBusy env).polls.getD 0) = true :=
    (limitReached_iff _ _).mpr hl
  rw [run_cons, perform, settle_pinGet_busy h, busySample, reached]

/-- A busy sample before the deadline waits a poll interval, the next sample and the rest still to do (R130). -/
theorem run_issue_busy_below (hl : ¬∃ n, s.params.busyPollLimit = some n ∧ n ≤ s.polls.getD 0 + 1) :
    run (.issue .pinGet :: rest) s =
      .stop ((s.countBusy env).await (.delay s.params.pollIntervalUs) (.issue .pinGet :: rest)) := by
  have below : limitReached (s.countBusy env).params.busyPollLimit ((s.countBusy env).polls.getD 0) = false :=
    Bool.eq_false_iff.mpr fun hr => hl ((limitReached_iff _ _).mp hr)
  rw [run_cons, perform, settle_pinGet_busy h, busySample, below]
  rfl

end BusySample

/-- A step from a poll interval, no engine reset coming in it, goes on with what is left of the sequence. -/
theorem step_of_interval {s : State} {us : Nat} (ha : s.active = true) (hp : s.pend = some (.delay us))
    (hn : ∀ env, s.env.next ≠ some (.reset, env)) :
    step s = .next (run s.seq ({ s with seq := [] }.record (.delay us) .ok)).state := by
  rw [step_of_active ha, resume_of_pend hp, run_cons_go (perform_delay (s := { s with seq := [] }) us s.seq hn)]

/-- A busy sample after `k` busy ones, nothing else being held in SEQ: the deadline decides. -/
theorem run_busySample_counts {s : State} {k : Nat} {more : List Move} (hk : s.polls = some k)
    (hs : s.env.script = .ok .high :: more) (hseq : s.seq = []) (rest : List Item) :
    (run (.issue .pinGet :: rest) s).state =
      if ∃ n, s.params.busyPollLimit = some n ∧ n ≤ k + 1 then
        { (s.after (evSample .high) s.pins more).ended .panelTimeout with
          pstate := if s.req.map Request.op ∈ [some 0x01#8, some 0x02#8] then .uninitialized else s.pstate }
      else
        { s.after (evSample .high) s.pins more with
          polls := some (k + 1), pend := some (.delay s.params.pollIntervalUs), seq := .issue .pinGet :: rest } := by
  have next := Env.next_of_script hs
  have polls : s.polls.getD 0 = k := by simp [hk]
  split
  next hl =>
    rw [run_issue_busy_limit next rest (polls ▸ hl), ← powerAfter_of_failure (.inr rfl)]
    rfl
  next hl =>
    rw [run_issue_busy_below next rest (polls ▸ hl)]
    simp [Turn.state, State.await, State.countBusy, State.after, polls, hseq]

/-- Settles O21: after the interval as after a wait, the step takes the sample, and the deadline decides. -/
theorem busySampleCountsTowardsTheDeadline : Obligations.BusySampleCountsTowardsTheDeadline := by
  unfold Obligations.BusySampleCountsTowardsTheDeadline
  intro s k rest more ha hk hs counted
  refine ⟨fun us hp hseq => ?_, fun hp hseq => ?_⟩
  · rw [step_of_interval ha hp (Env.next_ne_reset_of_script hs nofun), hseq,
      run_busySample_counts (s := ({ s with seq := [] } : State).record (.delay us) .ok) hk hs rfl, apply_ite Host.Outcome.next]
    simp [counted, State.after, evDelay, okEvent, State.record, State.ended]
  · rw [step_of_active ha, resume_of_pend hp, hseq, run_busySample_counts (s := { s with seq := [] }) hk hs rfl,
      apply_ite Host.Outcome.next]
    rfl

end Sys2Proof.Machine
end

section
/-! O18 and O19 (spec/40_framer.md R130, R131): WAIT_IDLE's poll, sample by sample. Every step of it, the first one too, takes
one sample, so that one induction over the busy samples counts the steps. -/

namespace Sys2Proof.Machine

/-- WAIT_IDLE, presented in `s`, about to take a sample after `n` busy ones and as many poll intervals. -/
def State.beforeSample (s : State) (host : List HostMove) (n : Nat) (env : Env) : State :=
  { s with
    active := true, req := some (requestOf .waitIdle), seq := [], polls := some n, pend := none
    env := env, host := host, trace := s.trace ++ evBusy s.params.pollIntervalUs n }

/-- The state in which that sample leaves WAIT_IDLE. -/
def State.afterSample (s : State) (host : List HostMove) (n : Nat) (env : Env) : State :=
  (run [.issue .pinGet, .finish] (s.beforeSample host n env)).state

section Sample

variable {s : State} {host : List HostMove} {n : Nat}

/-- The step that accepts WAIT_IDLE takes the first sample. -/
theorem step_waitIdle (ha : s.active = false) (hh : s.host = .request (encode .waitIdle) :: host) :
    step s = .next (s.afterSample host 0 s.env) := by
  have decoded : decodeRequest (encode .waitIdle) = .ok (.waitIdle, []) := rfl
  have started : { ({ s with host := host } : State).accept .waitIdle with polls := some 0 } =
      s.beforeSample host 0 s.env := by
    simp [State.accept, State.beforeSample, evBusy]
  have executed : exec .waitIdle { s with host := host } = .next (s.afterSample host 0 s.env) := by
    rw [State.afterSample, ← started]
    exact if_neg (by simp [ha])
  have latched := latchDescriptor_encode (i := .waitIdle) rfl
    ((exec_req (s := { s with host := host }) rfl ha executed).imp And.right And.right)
  simp only [step_of_idle ha, hostTurn, hh, presentRequest, decoded, execRequest, executed, latched]

/-- An idle sample completes WAIT_IDLE. -/
theorem afterSample_of_idle {more : List Move} :
    s.afterSample host n { s.env with script := .ok .low :: more } =
      { (s.after (evBusy s.params.pollIntervalUs n ++ evWaitOk) s.pins more).ended .ok with host := host } := by
  have idle : isBusy s.rev .low = false := by cases s.rev <;> rfl
  have answered := perform_issue_idle (t := .pinGet) rfl [.finish]
    (s := s.beforeSample host n { s.env with script := .ok .low :: more }) rfl idle rfl
  rw [State.afterSample, run_cons_go answered, run_finish, State.after, ← List.append_assoc]
  rfl

/-- The busy sample that reaches the deadline ends WAIT_IDLE with PANEL_TIMEOUT. -/
theorem afterSample_of_timeout {more : List Move} (hl : s.params.busyPollLimit = some (n + 1)) :
    s.afterSample host n { s.env with script := .ok .high :: more } =
      { (s.after (evBusy s.params.pollIntervalUs n ++ evSample .high) s.pins more).ended .panelTimeout with
        host := host } := by
  have answered := run_issue_busy_limit (s := s.beforeSample host n { s.env with script := .ok .high :: more })
    (Env.next_of_script rfl) [.finish] ⟨n + 1, hl, le_rfl⟩
  rw [State.afterSample, answered, State.after, ← List.append_assoc]
  rfl

/-- WAIT_IDLE in the poll interval after `n + 1` busy samples. -/
def State.inInterval (s : State) (host : List HostMove) (n : Nat) (env : Env) : State :=
  ((s.beforeSample host n env).countBusy env).await (.delay s.params.pollIntervalUs) [.issue .pinGet, .finish]

/-- After a busy sample below the deadline comes the poll interval. -/
theorem afterSample_of_busy {env env' : Env} (h : env.next = some (.ok .high, env'))
    (hl : ¬∃ m, s.params.busyPollLimit = some m ∧ m ≤ n + 1) :
    s.afterSample host n env = s.inInterval host n env' :=
  congrArg Turn.state (run_issue_busy_below (s := s.beforeSample host n env) h [.finish] hl)

/-- The step from the poll interval takes the next sample. -/
theorem step_inInterval {env : Env} (hn : ∀ e, env.next ≠ some (.reset, e)) :
    step (s.inInterval host n env) = .next (s.afterSample host (n + 1) env) := by
  have waited : ({ s.inInterval host n env with seq := [] } : State).record (.delay s.params.pollIntervalUs) .ok =
      s.beforeSample host (n + 1) env := by
    simp [State.record, State.inInterval, State.await, State.countBusy, State.beforeSample, evBusy, List.replicate_succ',
      evDelay, okEvent]
  rw [step_of_interval (s := s.inInterval host n env) rfl rfl hn, waited]
  rfl

theorem runSteps_succ {t : State} (h : step s = .next t) (n : Nat) : runSteps (n + 1) s = runSteps n t := by
  rw [runSteps, h]

end Sample

/-- `k` busy samples below the deadline take `k` steps, and one step more takes the sample after them. -/
theorem runSteps_busy (s : State) (host : List HostMove) {m : Move} (more : List Move) (k : Nat) :
    ∀ {u : State} {j : Nat} {env : Env}, step u = .next (s.afterSample host j env) →
      env.script = .replicate k (.ok .high) ++ m :: more → m ≠ .reset →
      (∀ n, s.params.busyPollLimit = some n → j + k < n) →
      runSteps (k + 1) u = .next (s.afterSample host (j + k) { env with script := m :: more }) := by
  induction k with
  | zero =>
    rintro u j ⟨_, loop⟩ hu rfl - -
    exact (runSteps_succ hu 0).trans rfl
  | succ k ih =>
    intro u j env hu hs hm hl
    have below : ¬∃ n, s.params.busyPollLimit = some n ∧ n ≤ j + 1 := by
      rintro ⟨n, hn, hle⟩
      have := hl n hn
      omega
    have noReset : ∀ e, (Env.mk (.replicate k (.ok .high) ++ m :: more) env.loop).next ≠ some (.reset, e) := by
      cases k with
      | zero => exact Env.next_ne_reset_of_script rfl hm
      | succ k => exact Env.next_ne_reset_of_script rfl nofun
    rw [runSteps_succ hu, afterSample_of_busy (Env.next_of_script hs) below, show j + (k + 1) = j + 1 + k by omega]
    refine ih (env := ⟨.replicate k (.ok .high) ++ m :: more, env.loop⟩) (step_inInterval noReset) rfl hm fun n hn => ?_
    have := hl n hn
    omega

/-- Settles O18: the busy samples take a step each, and the idle one completes. -/
theorem pollRepeatsUntilIdle : Obligations.PollRepeatsUntilIdle := by
  unfold Obligations.PollRepeatsUntilIdle
  intro s k more host ha hh hs hl
  rw [runSteps_busy s host more k (step_waitIdle ha hh) hs nofun (by simpa using hl), afterSample_of_idle, Nat.zero_add]

/-- Settles O19: the busy samples before the last take a step each, and the last one reaches the deadline. -/
theorem pollTimesOutAtTheLimit : Obligations.PollTimesOutAtTheLimit := by
  unfold Obligations.PollTimesOutAtTheLimit
  intro s n more host ha hh hlimit hs
  have script : s.env.script = .replicate n (.ok .high) ++ .ok .high :: more := by
    rw [hs, List.replicate_succ', List.append_assoc]
    rfl
  rw [runSteps_busy s host more n (step_waitIdle ha hh) script nofun (by simp [hlimit]), Nat.zero_add,
    afterSample_of_timeout hlimit]

end Sys2Proof.Machine
end

section
/-! O30 to O33 and O43 (spec/40_framer.md R125 to R128, R133, R140 to R155): a bus command is its frames and, for the window
and cursor commands, one shadow write behind them. -/

namespace Sys2Proof.Machine

/-! Outside an operation, and inside one. -/

/-- Settles O33: a well-formed command is emitted inside an operation only, and an ill-formed one has no data frame. -/
theorem noCommandOutsideAnOperation : Obligations.NoCommandOutsideAnOperation := by
  unfold Obligations.NoCommandOutsideAnOperation
  intro s c hb
  refine ⟨fun hw ha => ?_, fun hw => ?_⟩
  · rw [exec_command hb hw, emitCommand, if_neg (by simp [ha])]
  · cases c with
    | cmdWriteRamBw b | cmdWriteRamRed b | cmdWriteLut b =>
      cases b with
      | nil => rfl
      | cons => simp [Instr.wellFormed, payloadFits] at hw
    | cmdDriverOutputControl | cmdDeepSleepMode | cmdDataEntryMode | cmdSwReset | cmdTemperatureSensor
    | cmdMasterActivation | cmdDisplayUpdateControl1 | cmdDisplayUpdateControl2 | cmdBorderWaveform | cmdSetRamXWindow
    | cmdSetRamYWindow | cmdSetRamXCounter | cmdSetRamYCounter => cases hw
    | _ => cases hb

/-- A command that goes through inside an operation leaves what its sequence does. -/
theorem exec_command_go {c : Instr} (hb : c.isBus = true) (hw : c.wellFormed = true) {s t : State} (ha : s.active = true)
    (hp : s.pend = none) (hr : run (commandItems c) s = .go t) : exec c s = .next t := by
  rw [exec_command hb hw, emitCommand, if_pos ha, proceed_of_none hp, hr]
  rfl

/-! Every answer Ok. -/

section Sent

variable {s : State} {more : List Move} (ha : s.active = true) (hp : s.pend = none)

include ha hp

/-- A command without a payload (R126). -/
theorem exec_sendCommand {c : Instr} {op : Byte} (hb : c.isBus = true) (hw : c.wellFormed = true)
    (hc : commandItems c = sendCommand op) (h : s.hearsOk 4 more) :
    exec c s = .next (s.after (evCmd op) s.pins.afterCommand more) := by
  refine exec_command_go hb hw ha hp ?_
  rw [hc, ← List.append_nil (sendCommand op)]
  exact run_sendCommand op [] s more h hp

/-- A command with a payload (R127). -/
theorem exec_sendCommandWithData {c : Instr} {op : Byte} {payload : List Byte} (hb : c.isBus = true)
    (hw : c.wellFormed = true) (hc : commandItems c = sendCommandWithData op payload)
    (h : s.hearsOk (payload.length + 7) more) :
    exec c s = .next (s.after (evCmd op ++ evDat payload) s.pins.afterData more) := by
  refine exec_command_go hb hw ha hp ?_
  rw [hc, ← List.append_nil (sendCommandWithData op payload)]
  exact run_sendCommandWithData op payload [] s more h hp

/-- A command with a payload and a shadow write (R133). -/
theorem exec_sendAndLatch {c : Instr} {op : Byte} {payload : List Byte} {w : ShadowWrite} (hb : c.isBus = true)
    (hw : c.wellFormed = true) (hc : commandItems c = sendCommandWithData op payload ++ [.latch w])
    (h : s.hearsOk (payload.length + 7) more) :
    exec c s = .next ((s.after (evCmd op ++ evDat payload) s.pins.afterData more).latch w) := by
  refine exec_command_go hb hw ha hp ?_
  rw [hc]
  exact run_sendCommandWithData op payload [.latch w] s more h hp

end Sent

/-- 0x01's payload with its flag byte bit by bit (spec/41_encoders.md R163). -/
theorem driverOutput_eq (n : Nat) (linear firstG0 increasing : Bool) :
    driverOutput n linear firstG0 increasing = [lo8 n, hi8 n,
      (if increasing then 0#8 else 1#8) ||| (if firstG0 then 0#8 else 2#8) ||| (if linear then 0#8 else 4#8)] := by
  cases linear <;> cases firstG0 <;> cases increasing <;> rfl

/-- 0x11's payload byte bit by bit (spec/41_encoders.md R165). -/
theorem dataEntry_eq : ∀ (m : BitVec 2) (y : Bool),
    dataEntry m.toNat y.toNat = BitVec.zeroExtend 8 m ||| (if y then 4#8 else 0#8) := by
  decide

/-- Settles O30: each command is one or two frames. -/
theorem plainCommandsSendTheirFrames : Obligations.PlainCommandsSendTheirFrames := by
  unfold Obligations.PlainCommandsSendTheirFrames
  intro s more ha hp sent
  refine ⟨fun n l f i h => ?_, fun c h => ?_, fun m y h => ?_, fun h => ?_, fun h => ?_, fun h => ?_, fun h => ?_,
    fun f h => ?_, fun d hd h => ?_, fun b h => ?_⟩
  · exact exec_sendCommandWithData ha hp rfl rfl (congrArg (sendCommandWithData _) (driverOutput_eq _ l f i)) h
  · exact exec_sendCommandWithData ha hp rfl rfl rfl h
  · rw [← dataEntry_eq]
    exact exec_sendCommandWithData ha hp rfl rfl rfl h
  · exact exec_sendCommand ha hp rfl rfl rfl h
  · exact exec_sendCommandWithData ha hp rfl rfl rfl h
  · exact exec_sendCommand ha hp rfl rfl rfl h
  · exact exec_sendCommandWithData ha hp rfl rfl rfl h
  · exact exec_sendCommandWithData ha hp rfl rfl rfl h
  · have fits : payloadFits d = true := decide_eq_true (List.length_pos_iff.mpr hd)
    rw [Nat.add_comm] at h
    exact ⟨exec_sendCommandWithData ha hp rfl fits rfl h, exec_sendCommandWithData ha hp rfl fits rfl h,
      exec_sendCommandWithData ha hp rfl fits rfl h⟩
  · exact exec_sendCommandWithData ha hp rfl rfl rfl h

/-- Settles O31: each command is two frames and its shadow write. -/
theorem addressCommandsWriteTheirShadows : Obligations.AddressCommandsWriteTheirShadows := by
  unfold Obligations.AddressCommandsWriteTheirShadows
  intro s more ha hp
  exact ⟨fun xs xe h => exec_sendAndLatch (c := .cmdSetRamXWindow xs xe) ha hp rfl rfl rfl h,
    fun ys ye h => exec_sendAndLatch (c := .cmdSetRamYWindow ys ye) ha hp rfl rfl rfl h,
    fun x h => exec_sendAndLatch (c := .cmdSetRamXCounter x) ha hp rfl rfl rfl h,
    fun y h => exec_sendAndLatch (c := .cmdSetRamYCounter y) ha hp rfl rfl rfl h⟩

/-! A frame cut by an error. -/

/-- The transactions of a frame: those that a pin or the bus takes. -/
def Item.isFraming : Item → Bool
  | .issue (.pinSet _ _) | .issue (.byteOut _) => true
  | _ => false

theorem isFraming_of_mem_frame {dcl : Level} {bytes : List Byte} {item : Item} (h : item ∈ frame dcl bytes) :
    item.isFraming = true := by
  simp only [frame, List.mem_append, List.mem_cons, List.mem_map, List.not_mem_nil, or_false] at h
  obtain ((rfl | rfl) | ⟨b, -, rfl⟩) | rfl := h <;> rfl

theorem isFraming_of_mem_sendCommandWithData {op : Byte} {bytes : List Byte} {item : Item}
    (h : item ∈ sendCommandWithData op bytes) : item.isFraming = true :=
  (List.mem_append.mp h).elim isFraming_of_mem_frame isFraming_of_mem_frame

theorem isAsked_of_isFraming {t : Transaction} (h : (Item.issue t).isFraming = true) : t.isAsked = true := by
  cases t with
  | pinSet | byteOut => rfl
  | pinGet | delay => cases h

/-- A transaction of a frame, answered Ok. -/
theorem perform_framing_ok {item : Item} (hi : item.isFraming = true) {s : State} {l : Level} {mid : List Move}
    (h : s.env.script = .ok l :: mid) (rest : List Item) :
    ∃ evs pins, perform item rest s = .go { s.after evs pins mid with pend := none } := by
  cases item with
  | issue t =>
    cases t with
    | pinSet p lv => exact ⟨_, _, perform_pinSet_ok rest h⟩
    | byteOut b => exact ⟨_, _, perform_byteOut_ok rest h⟩
    | _ => cases hi
  | _ => cases hi

/-- Frames cut by an error end the operation, and only the pins and the record have changed before (R133, R253). -/
theorem run_framing_err {items : List Item} (hi : ∀ item ∈ items, item.isFraming = true) {ms more : List Move} {e : Nat}
    (hms : ∀ m ∈ ms, ∃ l, m = .ok l) (hl : ms.length < items.length) (rest : List Item) :
    ∀ s : State, s.env.script = ms ++ .err e :: more →
      ∃ evs pins, run (items ++ rest) s = .stop ((s.after evs pins more).raise .busError e) := by
  induction items generalizing ms with
  | nil => simp at hl
  | cons item items ih =>
    intro s hs
    obtain ⟨hitem, hi⟩ := List.forall_mem_cons.mp hi
    cases ms with
    | nil =>
      cases item with
      | issue t => exact ⟨_, _, run_issue_err (isAsked_of_isFraming hitem) hs _⟩
      | _ => cases hitem
    | cons m ms =>
      obtain ⟨⟨l, rfl⟩, htail⟩ := List.forall_mem_cons.mp hms
      obtain ⟨evs, pins, hgo⟩ := perform_framing_ok hitem (mid := ms ++ .err e :: more) hs (items ++ rest)
      obtain ⟨evs', pins', hstop⟩ := ih hi htail (Nat.lt_of_succ_lt_succ hl)
        { s.after evs pins (ms ++ .err e :: more) with pend := none } rfl
      refine ⟨evs ++ evs', pins', ?_⟩
      rw [List.cons_append, run_cons_go hgo, hstop]
      simp [State.after, State.raise, State.endOperation]

/-- A window or cursor command cut by an error. -/
theorem exec_sendAndLatch_err {c : Instr} {op : Byte} {payload : List Byte} {w : ShadowWrite} (hb : c.isBus = true)
    (hw : c.wellFormed = true) (hc : commandItems c = sendCommandWithData op payload ++ [.latch w]) {s : State}
    {ms more : List Move} {e : Nat} (ha : s.active = true) (hp : s.pend = none) (hl : ms.length < payload.length + 7)
    (hs : s.env.script = ms ++ .err e :: more) (hms : ∀ m ∈ ms, ∃ l, m = .ok l) :
    ∃ t, exec c s = .next t ∧ t.shadow = s.shadow ∧ t.code = .busError ∧ t.active = false := by
  have length : ms.length < (sendCommandWithData op payload).length := by
    simp [sendCommandWithData, sendCommand, sendData, frame]
    omega
  obtain ⟨evs, pins, hstop⟩ :=
    run_framing_err (fun _ => isFraming_of_mem_sendCommandWithData) hms length [.latch w] s hs
  refine ⟨(s.after evs pins more).raise .busError e, ?_, rfl, rfl, rfl⟩
  rw [exec_command hb hw, emitCommand, if_pos ha, proceed_of_none hp, hc, hstop]
  rfl

/-- Settles O32: the shadow write stands behind the frames, and the error comes in them. -/
theorem cutFrameWritesNoShadow : Obligations.CutFrameWritesNoShadow := by
  unfold Obligations.CutFrameWritesNoShadow
  intro s c ms more e ha hp hc hs hms
  obtain ⟨xs, xe, rfl, hl⟩ | ⟨ys, ye, rfl, hl⟩ | ⟨x, rfl, hl⟩ | ⟨y, rfl, hl⟩ := hc
  · exact exec_sendAndLatch_err rfl rfl rfl ha hp hl hs hms
  · exact exec_sendAndLatch_err rfl rfl rfl ha hp hl hs hms
  · exact exec_sendAndLatch_err rfl rfl rfl ha hp hl hs hms
  · exact exec_sendAndLatch_err rfl rfl rfl ha hp hl hs hms

/-! The frame of a command. -/

/-- The four window and cursor commands. -/
def isAddressCommand : Instr → Bool
  | .cmdSetRamXWindow _ _ | .cmdSetRamYWindow _ _ | .cmdSetRamXCounter _ | .cmdSetRamYCounter _ => true
  | _ => false

/-- A bus command writes no register but a shadow, and only a window or cursor command does (R133). -/
theorem latch_of_mem_commandItems {c : Instr} (hb : c.isBus = true) {w : Item} (h : w ∈ commandItems c)
    (hw : w.isWrite = true) : isAddressCommand c = true ∧ ∃ v, w = .latch v := by
  have hm := mem_writesOf h hw
  cases c with
  | cmdSetRamXWindow | cmdSetRamYWindow | cmdSetRamXCounter | cmdSetRamYCounter =>
    simp [commandItems, setRamXWindow, setRamYWindow, setRamXCounter, setRamYCounter] at hm
    exact ⟨rfl, _, hm⟩
  | cmdSwReset | cmdMasterActivation => simp [commandItems, swReset, masterActivation] at hm
  | cmdDriverOutputControl | cmdDeepSleepMode | cmdDataEntryMode | cmdTemperatureSensor | cmdDisplayUpdateControl1
  | cmdDisplayUpdateControl2 | cmdWriteRamBw | cmdWriteRamRed | cmdWriteLut | cmdBorderWaveform =>
    simp [commandItems, driverOutputControl, deepSleepMode, dataEntryMode, temperatureSensor, displayUpdateControl1,
      displayUpdateControl2, writeRamBw, writeRamRed, writeLut, borderControl] at hm
  | _ => cases hb

theorem wellFormed_of_exec {c : Instr} (hb : c.isBus = true) {s t : State} (h : exec c s = .next t) :
    c.wellFormed = true := by
  by_contra hw
  rw [(noCommandOutsideAnOperation s c hb).2 (Bool.eq_false_iff.mpr hw)] at h
  cases h

/-- What exec of a command answers: nothing has changed outside an operation, and inside one a stretch has run that writes
what the command writes. -/
theorem exec_command_cases {c : Instr} (hb : c.isBus = true) {s t : State} (h : exec c s = .next t) :
    (s.active = false ∧ t = s) ∨ (s.active = true ∧ ∃ items,
      (∀ w ∈ items, w.isWrite = true → w ∈ commandItems c) ∧ t = (run items s).state) := by
  rw [exec_command hb (wellFormed_of_exec hb h), emitCommand] at h
  cases ha : s.active with
  | false =>
    simp only [ha, Bool.false_eq_true, if_false] at h
    cases h
    exact .inl ⟨rfl, rfl⟩
  | true =>
    simp only [ha, if_true] at h
    cases h
    cases hp : s.pend with
    | none => exact .inr ⟨rfl, commandItems c, fun _ hw _ => hw, by rw [proceed_of_none hp]⟩
    | some x =>
      refine .inr ⟨rfl, .issue x :: commandItems c, fun w hw hwrite => ?_, by rw [proceed_of_pend hp]⟩
      obtain rfl | hw := List.mem_cons.mp hw
      · cases hwrite
      · exact hw

/-- The frame of a stretch that writes no register but shadows. -/
theorem run_latches_kept {items : List Item} (hi : ∀ w ∈ items, w.isWrite = true → ∃ v, w = .latch v) {s : State}
    (hn : s.noReset) :
    let t := (run items s).state
    Kept items s t ∧ t.refresh = s.refresh ∧ t.duc2Acc = s.duc2Acc ∧ (t.code ≠ .busError → t.errInfo = s.errInfo)
      ∧ (t.active = true → t.code = s.code ∧ t.pstate = s.pstate ∧ t.errInfo = s.errInfo ∧ t.req = s.req) := by
  have other : ∀ w : Item, w.isWrite = true → (∀ v, w ≠ .latch v) → w ∉ items := by
    intro w hw hv hm
    obtain ⟨v, rfl⟩ := hi w hm hw
    exact hv v rfl
  have noPower : ∀ p, .setPower p ∉ items := fun p => other _ rfl nofun
  have noRefresh : ∀ m, .setRefresh m ∉ items := fun m => other _ rfl nofun
  have noCompose : ∀ v, .compose v ∉ items := fun v => other _ rfl nofun
  have hk := run_kept items s hn
  cases hr : run items s with
  | go t =>
    rw [hr] at hk
    exact ⟨hk.toKept, hk.refresh noRefresh, hk.duc2Acc noCompose, fun _ => hk.errInfo,
      fun _ => ⟨hk.code, hk.pstate noPower, hk.errInfo, hk.req⟩⟩
  | stop t =>
    rw [hr] at hk
    refine ⟨hk.toKept, hk.refresh noRefresh, hk.duc2Acc noCompose, hk.errInfo, fun ha => ?_⟩
    obtain h | ⟨-, hcode, herr, hreq, hpstate⟩ := hk.ended
    · exact absurd (h.symm.trans ha) Bool.false_ne_true
    · exact ⟨hcode, hpstate noPower, herr, hreq⟩

/-- Settles O43: a command's own items write shadows only, and those of the four window and cursor commands. -/
theorem busCommandFrame : Obligations.BusCommandFrame := by
  unfold Obligations.BusCommandFrame
  intro c s t hb hn h
  obtain ⟨-, rfl⟩ | ⟨ha, items, hown, rfl⟩ := exec_command_cases hb h
  · exact ⟨rfl, rfl, rfl, rfl, rfl, rfl, rfl, fun _ => rfl, fun _ => ⟨rfl, rfl, rfl, rfl⟩, fun _ _ _ _ => rfl, [],
      by simp⟩
  · have writes := fun w hw hwrite => latch_of_mem_commandItems hb (hown w hw hwrite) hwrite
    obtain ⟨hk, hrefresh, hduc, herr, hgoing⟩ := run_latches_kept (fun w hw hwrite => (writes w hw hwrite).2) hn
    refine ⟨hk.rev, hk.params, hk.host, hrefresh, hk.bg, hduc, hk.result, herr, fun hactive => hgoing (hactive.trans ha),
      fun hxw hyw hx hy => hk.shadow fun v hv => ?_, hk.trace⟩
    have address := (writes _ hv rfl).1
    cases c with
    | cmdSetRamXWindow xs xe => exact hxw xs xe rfl
    | cmdSetRamYWindow ys ye => exact hyw ys ye rfl
    | cmdSetRamXCounter x => exact hx x rfl
    | cmdSetRamYCounter y => exact hy y rfl
    | _ => cases address

end Sys2Proof.Machine
end

section
/-! O59 (spec/40_framer.md R130, R131). Every busy poll of an operation starts right before its first sample, so a busy
sample there is the first one that is counted, and what comes before it is answered Ok and idle. -/

namespace Sys2Proof.Machine

/-! Where the polls of a sequence stand. -/

/-- The two items of a busy poll. -/
def Item.isPoll : Item → Bool
  | .startPoll | .issue .pinGet => true
  | _ => false

/-- Every poll of the sequence is a `wait_until_idle()` (R130). -/
inductive Polled : List Item → Prop
  | nil : Polled []
  | poll {rest : List Item} (h : Polled rest) : Polled (waitUntilIdle ++ rest)
  | other {item : Item} {rest : List Item} (hi : item.isPoll = false) (h : Polled rest) : Polled (item :: rest)

theorem polled_cons {item : Item} (hi : item.isPoll = false) {a : List Item} : Polled (item :: a) ↔ Polled a := by
  refine ⟨fun h => ?_, .other hi⟩
  generalize hb : item :: a = b at h
  cases h with
  | nil => cases hb
  | poll h => cases hb; cases hi
  | other _ h => cases hb; exact h

theorem polled_poll {a : List Item} : Polled (waitUntilIdle ++ a) ↔ Polled a := by
  refine ⟨fun h => ?_, .poll⟩
  generalize hb : waitUntilIdle ++ a = b at h
  cases h with
  | nil => cases hb
  | poll h => cases hb; exact h
  | other hi _ => cases hb; cases hi

@[simp] theorem polled_append {a b : List Item} (ha : Polled a) : Polled (a ++ b) ↔ Polled b := by
  induction ha with
  | nil => rfl
  | poll _ ih => rw [List.append_assoc, polled_poll, ih]
  | other hi _ ih => rw [List.cons_append, polled_cons hi, ih]

/-- A stretch without a poll. -/
theorem polled_of_none {items : List Item} (h : ∀ item ∈ items, item.isPoll = false) : Polled items := by
  induction items with
  | nil => exact .nil
  | cons item items ih =>
    obtain ⟨hi, hr⟩ := List.forall_mem_cons.mp h
    exact .other hi (ih hr)

theorem isPoll_of_isFraming {item : Item} (h : item.isFraming = true) : item.isPoll = false := by
  cases item with
  | issue t =>
    cases t with
    | pinSet | byteOut => rfl
    | pinGet | delay => cases h
  | _ => cases h

@[simp] theorem polled_nil : Polled [] := .nil
@[simp] theorem polled_latch (w : ShadowWrite) (a : List Item) : Polled (.latch w :: a) ↔ Polled a := polled_cons rfl
@[simp] theorem polled_compose (v : Byte) (a : List Item) : Polled (.compose v :: a) ↔ Polled a := polled_cons rfl
@[simp] theorem polled_setPower (p : PowerState) (a : List Item) : Polled (.setPower p :: a) ↔ Polled a :=
  polled_cons rfl
@[simp] theorem polled_setRefresh (m : RefreshMode) (a : List Item) : Polled (.setRefresh m :: a) ↔ Polled a :=
  polled_cons rfl
@[simp] theorem polled_finish (a : List Item) : Polled (.finish :: a) ↔ Polled a := polled_cons rfl
@[simp] theorem polled_ite {p : Prop} [Decidable p] {a b : List Item} :
    Polled (if p then a else b) ↔ (p → Polled a) ∧ (¬p → Polled b) := by
  split <;> simp_all
@[simp] theorem polled_waitUntilIdle : Polled waitUntilIdle := .poll .nil
@[simp] theorem polled_hardwareReset (lowUs highUs : Nat) : Polled (hardwareReset lowUs highUs) :=
  polled_of_none (by simp [hardwareReset, Item.isPoll])
@[simp] theorem polled_sendCommand (op : Byte) : Polled (sendCommand op) :=
  polled_of_none fun _ h => isPoll_of_isFraming (isFraming_of_mem_frame h)
@[simp] theorem polled_sendCommandWithData (op : Byte) (bytes : List Byte) : Polled (sendCommandWithData op bytes) :=
  polled_of_none fun _ h => isPoll_of_isFraming (isFraming_of_mem_sendCommandWithData h)
@[simp] theorem polled_setRamArea (r : Rect) : Polled (setRamArea r) := by
  simp [setRamArea, setRamXWindow, setRamYWindow]
@[simp] theorem polled_setRamAddressCounters (x y : Nat) : Polled (setRamAddressCounters x y) := by
  simp [setRamAddressCounters, setRamXCounter, setRamYCounter]
@[simp] theorem polled_ramWriteA (r : Rect) (bytes : List Byte) : Polled (ramWriteA r bytes) := by
  simp [ramWriteA, openWindow, writeRamBw]
@[simp] theorem polled_ramWriteC (r : Rect) (bytes : List Byte) : Polled (ramWriteC r bytes) := by
  simp [ramWriteC, openWindow, writeRamRed]
@[simp] theorem polled_updateFrameBody (a : List Byte) (s : State) : Polled (updateFrameBody a s) := by
  simp [updateFrameBody]
@[simp] theorem polled_displayBody (s : State) : Polled (displayBody s) := by
  simp [displayBody, displayUpdateControl2, masterActivation]

theorem polled_sequenceOf {i : Instr} (hb : i.isBus = false) (s : State) : Polled (sequenceOf i s) := by
  cases i with
  | init =>
    simp [sequenceOf, initBody, swReset, driverOutputControl, dataEntryMode, borderControl, temperatureSensor,
      displayUpdateControl1]
  | sleep =>
    simp [sequenceOf, sleepBody, sleepActivation, displayUpdateControl2, masterActivation, deepSleepMode]
  | setLut mode => simp [sequenceOf, setLutBody, writeLut]
  | updatePartialFrame x y w h a => simp [sequenceOf, updatePartialBody]
  | updateColorFrame a b => simp [sequenceOf, updateColorBody]
  | clearFrame => simp [sequenceOf, clearBody, clearPass]
  | waitIdle | updateFrame _ | updateAchromaticFrame _ | updateChromaticFrame _ | displayFrame | updateAndDisplayFrame _
  | setBackgroundColor _ | getBackgroundColor | getWidth | getHeight => simp [sequenceOf]
  | _ => cases hb

/-- The start of the poll stands right before a sample. -/
theorem Polled.started {items pre post : List Item} (h : Polled items) (he : items = pre ++ .issue .pinGet :: post) :
    pre.getLast? = some .startPoll := by
  induction h generalizing pre with
  | nil => simp at he
  | poll h ih =>
    match pre, he with
    | [], he => cases he
    | [_], he => cases he; rfl
    | _ :: _ :: pre, he =>
      injection he with _ he
      injection he with _ he
      simp [List.getLast?_cons, ih he]
  | other hi h ih =>
    match pre, he with
    | [], he => cases he; cases hi
    | _ :: pre, he =>
      injection he with _ he
      simp [List.getLast?_cons, ih he]

/-- What stands before a sample of a sequence, or the last part of it: no completion, no write of PSTATE, and the start of the
poll at its end. -/
structure BeforeSample (items : List Item) : Prop where
  noFinish : .finish ∉ items
  noPower : ∀ p, .setPower p ∉ items
  started : items.getLast? = some .startPoll

theorem beforeSample_of_sequence {i : Instr} (hb : i.isBus = false) (hr : isRegisterOp i = false) {s : State}
    {pre post : List Item} (h : sequenceOf i s = pre ++ .issue .pinGet :: post) : BeforeSample pre where
  noFinish := by
    obtain ⟨body, hbody, hf, -⟩ := sequence_body hb hr s
    obtain ⟨left, rfl, -⟩ := sequence_rest hb hr h
    rw [h, ← List.cons_append, ← List.append_assoc] at hbody
    obtain rfl := List.append_cancel_right hbody
    exact fun hm => hf (List.mem_append_left _ hm)
  noPower := ((modesLast_sequenceOf hb hr s).before_issue h).1
  started := (polled_sequenceOf hb s).started h

theorem BeforeSample.right {a b : List Item} (h : BeforeSample (a ++ b)) (hne : b ≠ []) : BeforeSample b where
  noFinish := fun hm => h.noFinish (List.mem_append_right a hm)
  noPower := fun p hm => h.noPower p (List.mem_append_right a hm)
  started := by rw [← List.getLast?_append_of_ne_nil a hne, h.started]

theorem BeforeSample.issue_cons {a : List Item} (h : BeforeSample a) (t : Transaction) : BeforeSample (.issue t :: a) where
  noFinish := by simp [h.noFinish]
  noPower := by simp [h.noPower]
  started := by simp [List.getLast?_cons, h.started]

/-- A poll that has just started has counted no busy sample. -/
theorem BeforeSample.pollsAfter_eq {items : List Item} (h : BeforeSample items) (n : Option Nat) :
    pollsAfter items n = some 0 := by
  obtain ⟨front, rfl⟩ := List.getLast?_eq_some_iff.mp h.started
  clear h
  induction front generalizing n with
  | nil => rfl
  | cons item front ih => cases item <;> exact ih _

/-! Up to the sample. -/

theorem State.hearsIdle_next_ne_reset {s : State} {n : Nat} {m : Move} {more : List Move} (h : s.hearsIdle n (m :: more))
    (hm : m ≠ .reset) : ∀ env, s.env.next ≠ some (.reset, env) := by
  obtain ⟨ms, hs, -, hok⟩ := h
  cases ms with
  | nil => exact Env.next_ne_reset_of_script hs hm
  | cons x ms =>
    obtain ⟨l, rfl, -⟩ := hok x (by simp)
    exact Env.next_ne_reset_of_script hs nofun

theorem replay_cons (item : Item) (items : List Item) (s : State) (mid more : List Move) :
    replay items (replay [item] s mid) more = replay (item :: items) s more := by
  cases item with
  | issue t =>
    cases t <;> simp [replay, pinsAfter, shadowAfter, duc2After, pstateAfter, refreshAfter, pollsAfter]
  | _ => simp [replay, pinsAfter, shadowAfter, duc2After, pstateAfter, refreshAfter, pollsAfter]

/-- One element of a sequence, answered Ok and idle, no engine reset coming after that. -/
theorem perform_idle {item : Item} (hf : item ≠ .finish) (rest : List Item) {s : State} {n : Nat} {m : Move}
    {more : List Move} (hm : m ≠ .reset) (h : s.hearsIdle (n + askedCount [item]) (m :: more)) (hp : s.pend = none) :
    ∃ mid, perform item rest s = .go (replay [item] s mid)
      ∧ ∀ s' : State, s'.env.script = mid → s'.rev = s.rev → s'.hearsIdle n (m :: more) := by
  have same : ∀ s' : State, s'.env.script = s.env.script → s'.rev = s.rev → s.hearsIdle n (m :: more) →
      s'.hearsIdle n (m :: more) := by
    rintro s' hs hr ⟨ms, h₁, h₂, h₃⟩
    exact ⟨ms, hs.trans h₁, h₂, hr ▸ h₃⟩
  cases item with
  | issue t =>
    cases ht : t.isAsked with
    | true =>
      obtain ⟨l, mid, hs, hb, hleft⟩ := State.hearsIdle_succ (n := n) (by simpa [askedCount, ht] using h)
      exact ⟨mid, perform_issue_idle ht rest hs hb hp, hleft⟩
    | false =>
      cases t with
      | delay us =>
        refine ⟨s.env.script, ?_, fun s' hs hr => same s' hs hr h⟩
        rw [perform_delay us rest (State.hearsIdle_next_ne_reset h hm)]
        simp [replay, State.record, idleEvent, pinsAfter, shadowAfter, duc2After, pstateAfter, refreshAfter, pollsAfter, hp]
      | _ => cases ht
  | finish => exact absurd rfl hf
  | startPoll | latch _ | compose _ | setPower _ | setRefresh _ =>
    refine ⟨s.env.script, ?_, fun s' hs hr => same s' hs hr h⟩
    simp [perform, State.latch, replay, pinsAfter, shadowAfter, duc2After, pstateAfter, refreshAfter, pollsAfter]

/-- A sequence whose answers are all Ok and idle, its last delay too having a move after it that is no engine reset. -/
theorem run_idle_until {items : List Item} (hf : .finish ∉ items) (rest : List Item) {m : Move} {more : List Move} :
    ∀ {s : State}, s.hearsIdle (askedCount items) (m :: more) → m ≠ .reset → s.pend = none →
      run (items ++ rest) s = run rest (replay items s (m :: more)) := by
  induction items with
  | nil =>
    intro s h _ _
    rw [← State.hearsOk_zero (State.hearsOk_of_idle h)]
    simp [replay, pinsAfter, shadowAfter, duc2After, pstateAfter, refreshAfter, pollsAfter]
  | cons item items ih =>
    intro s h hm hp
    simp only [List.mem_cons, not_or] at hf
    have count : askedCount (item :: items) = askedCount items + askedCount [item] := by
      rw [Nat.add_comm]
      exact askedCount_append [item] items
    obtain ⟨mid, hgo, hleft⟩ := perform_idle (Ne.symm hf.1) (items ++ rest) hm (count ▸ h) hp
    rw [List.cons_append, run_cons_go hgo, ih hf.2 (hleft (replay [item] s mid) rfl rfl) hm hp, replay_cons]

/-! The first busy sample. -/

/-- A sequence's transaction as an element of it. -/
theorem transactionsOf_split {items : List Item} {done rest : List Transaction} {t : Transaction}
    (h : transactionsOf items = done ++ t :: rest) :
    ∃ pre post, items = pre ++ .issue t :: post ∧ transactionsOf pre = done ∧ transactionsOf post = rest := by
  induction items generalizing done with
  | nil => simp at h
  | cons item items ih =>
    have later : ∀ done', transactionsOf items = done' ++ t :: rest → transactionsOf [item] ++ done' = done →
        ∃ pre post, item :: items = pre ++ .issue t :: post ∧ transactionsOf pre = done
          ∧ transactionsOf post = rest := by
      intro done' h' hd
      obtain ⟨pre, post, rfl, hpre, hpost⟩ := ih h'
      exact ⟨item :: pre, post, rfl, by rw [← hd, ← hpre]; exact transactionsOf_append [item] pre, hpost⟩
    cases item with
    | issue x =>
      rw [transactionsOf_issue] at h
      cases done with
      | nil =>
        obtain ⟨rfl, rfl⟩ := List.cons.inj h
        exact ⟨[], items, rfl, rfl, rfl⟩
      | cons y done =>
        obtain ⟨rfl, hrest⟩ := List.cons.inj h
        exact later done hrest rfl
    | _ => exact later done h rfl

theorem State.inOperation.power_iff {s : State} {i : Instr} (h : s.inOperation i) :
    s.req.map Request.op ∈ [some 0x01#8, some 0x02#8] ↔ i = .init ∨ i = .sleep := by
  obtain ⟨r, hr, hop⟩ := h
  rw [← isPowerRequest_iff_mem, hr, isPowerRequest_of_operation hop]

/-- Operation `i` in progress runs up to a poll's first sample and hears it busy: what O59 says of the state that follows. -/
theorem run_firstBusySample {i : Instr} {s : State} {before : List Item} {more : List Move} (ha : s.active = true)
    (hi : s.inOperation i) (hseq : s.seq = []) (hp : s.pend = none) (hb : BeforeSample before)
    (h : s.hearsIdle (askedCount before) (.ok .high :: more)) (after : List Item) :
    let t := (run (before ++ .issue .pinGet :: after) s).state
    t.trace = s.trace ++ (transactionsOf before).map idleEvent ++ evSample .high ∧ t.env.script = more
      ∧ t.errInfo = s.errInfo
      ∧ (if ∃ n, s.params.busyPollLimit = some n ∧ n ≤ 1 then
          t.code = .panelTimeout ∧ t.active = false ∧ t.pend = none
          ∧ t.pstate = (if i = .init ∨ i = .sleep then .uninitialized else s.pstate)
        else
          t.active = true ∧ t.code = s.code ∧ t.pstate = s.pstate ∧ t.polls = some 1
          ∧ t.pend = some (.delay s.params.pollIntervalUs) ∧ transactionsOf t.seq = .pinGet :: transactionsOf after) := by
  have power : pstateAfter before s.pstate = s.pstate := pstateAfter_of_notMem hb.noPower _
  have sample := run_busySample_counts (s := replay before s (.ok .high :: more)) (hb.pollsAfter_eq _) rfl hseq after
  rw [run_idle_until hb.noFinish _ h nofun hp, sample]
  simp only [show (replay before s (.ok .high :: more)).params = s.params from rfl, Nat.zero_add]
  split
  · exact ⟨by simp [replay], rfl, rfl, rfl, rfl, rfl, if_congr hi.power_iff rfl power⟩
  · exact ⟨by simp [replay], rfl, rfl, ha, rfl, power, rfl, rfl, rfl⟩

/-- What an operation that waits still issues before a poll's sample, if some of it is to be answered: that the sample comes
right after a poll interval is then shut out. -/
theorem beforeSample_of_waiting {i : Instr} {s : State} {x : Transaction} {pre post : List Item} (h : s.Inv)
    (ha : s.active = true) (hi : s.inOperation i) (hp : s.pend = some x) (hseq : s.seq = pre ++ .issue .pinGet :: post)
    (hasked : ∃ y ∈ x :: transactionsOf pre, y.isAsked = true) : BeforeSample (.issue x :: pre) := by
  obtain ⟨-, htrack, -⟩ := h
  obtain ⟨j, done, hj, hr, -, hplace⟩ := htrack ha
  obtain rfl := hi.unique hj
  obtain ⟨z, hz, -, hs⟩ | ⟨n, hz, hs, -⟩ := hplace <;> obtain rfl := Option.some.inj (hp.symm.trans hz)
  · have whole : sequenceOf i s = (done ++ .issue x :: pre) ++ .issue .pinGet :: post := by
      rw [hs, hseq, List.append_assoc, List.cons_append]
    exact (beforeSample_of_sequence hi.isBus hr whole).right (by simp)
  · have whole : sequenceOf i s = (done ++ pre) ++ .issue .pinGet :: post := by rw [hs, hseq, List.append_assoc]
    have issued : pre ≠ [] := by
      rintro rfl
      simp [Transaction.isAsked] at hasked
    exact ((beforeSample_of_sequence hi.isBus hr whole).right issued).issue_cons _

/-- Settles O59: the sample stands in the sequence, in the part still to do if the operation has waited, right after the start
of its poll. -/
theorem firstBusySampleOfAPoll : Obligations.FirstBusySampleOfAPoll := by
  unfold Obligations.FirstBusySampleOfAPoll
  intro i s ms more done rest hs hok hl counted
  refine ⟨fun hb hr ha hwf hc htrans => ?_, fun x hinv ha hi hp htrans hasked => ?_⟩
  · obtain ⟨pre, post, hseq, rfl, rfl⟩ := transactionsOf_split htrans
    have heard : (s.accept i).hearsIdle (askedCount pre) (.ok .high :: more) := ⟨ms, hs, hl.symm, hok⟩
    refine ⟨_, ?_, run_firstBusySample (s := s.accept i) rfl ⟨_, rfl, requestOf_operation hb⟩ rfl rfl
      (beforeSample_of_sequence hb hr hseq) heard post⟩
    rw [exec_operation hb hr fun m _ => lutPayload_ne_nil hwf m, hc, hseq]
    simp only [startOperation, ha, Bool.false_eq_true, if_false]
  · cases done with
    | nil => simp at hasked
    | cons y done =>
      obtain ⟨rfl, hrest⟩ := List.cons.inj htrans
      obtain ⟨pre, post, hseq, rfl, rfl⟩ := transactionsOf_split hrest
      have before : BeforeSample (.issue x :: pre) := beforeSample_of_waiting hinv ha hi hp hseq hasked
      have heard : ({ s with seq := [], pend := none } : State).hearsIdle (askedCount (.issue x :: pre))
          (.ok .high :: more) := ⟨ms, hs, hl.symm, hok⟩
      refine ⟨_, ?_, run_firstBusySample (s := { s with seq := [], pend := none }) ha hi rfl rfl before heard post⟩
      rw [step_of_active ha, resume_of_pend hp, ← run_issue_withPend x s.seq { s with seq := [] } none, hseq]
      rfl

end Sys2Proof.Machine
end

section
/-! O50 and O51: the configuration encoders (spec/41_encoders.md R160, R163, R165, R167 to R169). A composition holds the
bits that its actions own; a field of a masked sum reads back as the input modulo the field's size. -/

namespace Sys2Proof.Machine

/-! The composition of display update control 2. -/

/-- One action sets its own bit of the byte and no other (R167). -/
theorem getLsbD_one_shiftLeft_duc2Bit (p : Params) (a : Duc2Action) (k : Nat) :
    (1#8 <<< (duc2Bit p a).val).getLsbD k = true ↔ (duc2Bit p a).val = k := by
  rw [← BitVec.twoPow_eq, BitVec.getLsbD_twoPow]
  simp

/-- What is set in the end was set at the start or is owned by one of the actions. -/
theorem getLsbD_foldl_duc2Bit (p : Params) (k : Nat) (actions : List Duc2Action) (acc : Byte) :
    (actions.foldl (fun acc a => acc ||| (1#8 <<< (duc2Bit p a).val)) acc).getLsbD k = true ↔
      acc.getLsbD k = true ∨ ∃ a ∈ actions, (duc2Bit p a).val = k := by
  induction actions generalizing acc with
  | nil => simp
  | cons a actions ih =>
    rw [List.foldl_cons, ih, BitVec.getLsbD_or, Bool.or_eq_true, getLsbD_one_shiftLeft_duc2Bit]
    simp [or_assoc]

theorem getLsbD_composeDuc2 (p : Params) (actions : List Duc2Action) (k : Nat) :
    (composeDuc2 p actions).getLsbD k = true ↔ ∃ a ∈ actions, (duc2Bit p a).val = k := by
  simp [composeDuc2, getLsbD_foldl_duc2Bit]

/-- The order and the repetitions of the actions do not matter (R167). -/
theorem composeDuc2_congr (p : Params) {actions others : List Duc2Action} (h : ∀ a, a ∈ actions ↔ a ∈ others) :
    composeDuc2 p actions = composeDuc2 p others := by
  refine BitVec.eq_of_getLsbD_eq fun k _ => Bool.eq_iff_iff.mpr ?_
  simp only [getLsbD_composeDuc2, h]

theorem holdsExactly_composeDuc2 (p : Params) (actions : List Duc2Action) :
    holdsExactly (composeDuc2 p actions) (actions.map (duc2Bit p)) := by
  intro k
  simp [getLsbD_composeDuc2]

theorem holdsExactly_displayBits (p : Params) : holdsExactly (composeDuc2 p displayActions) (displayBits p) :=
  holdsExactly_composeDuc2 p displayActions

theorem holdsExactly_sleepBits (p : Params) : holdsExactly (composeDuc2 p sleepActions) (sleepBits p) :=
  holdsExactly_composeDuc2 p sleepActions

/-- Settles O50: the bits of a composition are those that its actions own, so they depend on the set only. -/
theorem compositionDependsOnTheSetOnly : Obligations.CompositionDependsOnTheSetOnly := by
  unfold Obligations.CompositionDependsOnTheSetOnly
  intro p actions
  exact ⟨getLsbD_composeDuc2 p actions, fun _ h => composeDuc2_congr p h, ⟨rfl, rfl, rfl, rfl, rfl, rfl, rfl⟩,
    holdsExactly_displayBits p, holdsExactly_sleepBits p⟩

/-! The fields of the other payload bytes. -/

/-- The `len` bits of a byte from `start` on are `m` when its number, shifted down, agrees with `m` modulo `2 ^ len`. -/
theorem extractLsb'_ofNat_byte {start len : Nat} (n m : Nat) (hfits : start + len ≤ 8)
    (h : n / 2 ^ start % 2 ^ len = m % 2 ^ len) : (BitVec.ofNat 8 n).extractLsb' start len = BitVec.ofNat len m := by
  apply BitVec.eq_of_toNat_eq
  have cut : 2 ^ 8 = 2 ^ start * 2 ^ (8 - start) := by rw [← Nat.pow_add]; congr 1; omega
  have inside : 2 ^ len ∣ 2 ^ (8 - start) := Nat.pow_dvd_pow 2 (by omega)
  rw [BitVec.extractLsb'_toNat, BitVec.toNat_ofNat, BitVec.toNat_ofNat, Nat.shiftRight_eq_div_pow, cut,
    Nat.mod_mul_right_div_self, Nat.mod_mod_of_dvd _ inside, h]

/-- The flag byte of 0x01 holds each flag inverted, under five zero bits (R163). -/
theorem driverFlags_bits : ∀ linear firstG0 increasing : Bool,
    let flags : Byte := BitVec.ofNat 8 (invertedFlag increasing + 2 * invertedFlag firstG0 + 4 * invertedFlag linear)
    flags.getLsbD 0 = !increasing ∧ flags.getLsbD 1 = !firstG0 ∧ flags.getLsbD 2 = !linear
      ∧ flags.extractLsb' 3 5 = 0#5 := by
  decide

/-- The four fields of the border byte (R160). -/
theorem borderWaveform_fields (vbd fix gs : Nat) :
    (borderWaveform vbd fix gs).extractLsb' 6 2 = BitVec.ofNat 2 vbd
    ∧ (borderWaveform vbd fix gs).extractLsb' 4 2 = BitVec.ofNat 2 fix
    ∧ (borderWaveform vbd fix gs).extractLsb' 2 2 = 0#2
    ∧ (borderWaveform vbd fix gs).extractLsb' 0 2 = BitVec.ofNat 2 gs := by
  unfold borderWaveform
  refine ⟨?_, ?_, ?_, ?_⟩ <;> exact extractLsb'_ofNat_byte _ _ (by decide) (by omega)

/-- The three fields of the data-entry byte (R165). -/
theorem dataEntry_fields (incMode direction : Nat) :
    (dataEntry incMode direction).extractLsb' 0 2 = BitVec.ofNat 2 incMode
    ∧ (dataEntry incMode direction).extractLsb' 2 1 = BitVec.ofNat 1 direction
    ∧ (dataEntry incMode direction).extractLsb' 3 5 = 0#5 := by
  unfold dataEntry
  refine ⟨?_, ?_, ?_⟩ <;> exact extractLsb'_ofNat_byte _ _ (by decide) (by omega)

/-- Settles O51, encoder by encoder. -/
theorem encodersPlaceTheirFields : Obligations.EncodersPlaceTheirFields := by
  unfold Obligations.EncodersPlaceTheirFields
  exact ⟨borderWaveform_fields, fun _ linear firstG0 increasing => ⟨_, rfl, driverFlags_bits linear firstG0 increasing⟩,
    dataEntry_fields⟩

end Sys2Proof.Machine
end

section
/-! O48 (spec/42_ram_addressing.md R182, R185, 40_framer.md R133). An operation that ends with OK has done every write of its
sequence, or an engine reset has cut it; either leaves the cursor's shadow at the window's origin. -/

namespace Sys2Proof.Machine

/-- An element other than the completion that leaves ACTIVE 0 and CODE OK was cut by an engine reset. -/
theorem shadow_zero_of_perform_stop {item : Item} (hf : item ≠ .finish) {rest : List Item} {s t : State}
    (ha : s.active = true) (h : perform item rest s = .stop t) (hidle : t.active = false) (hok : t.code = .ok) :
    t.shadow = Shadow.zero := by
  cases item with
  | issue x =>
    have hs := settle_settled x rest s
    rw [show settle x rest s = .stop t from h] at hs
    cases hs with
    | waits | busy => exact absurd (ha.symm.trans hidle) Bool.false_ne_true.symm
    | failed env a polls code info henv hcode =>
      obtain rfl : code = .ok := hok
      simp at hcode
    | cut => rfl
  | finish => exact absurd rfl hf
  | startPoll | latch _ | compose _ | setPower _ | setRefresh _ => cases h

/-- A stretch up to the completion that leaves ACTIVE 0 and CODE OK has done all its shadow writes, or was cut by an engine
reset. -/
theorem shadow_of_run_completed {body : List Item} (hf : .finish ∉ body) {s : State} (ha : s.active = true)
    (hidle : (run (body ++ [.finish]) s).state.active = false) (hok : (run (body ++ [.finish]) s).state.code = .ok) :
    (run (body ++ [.finish]) s).state.shadow = shadowAfter (body ++ [.finish]) s.shadow
      ∨ (run (body ++ [.finish]) s).state.shadow = Shadow.zero := by
  induction body generalizing s with
  | nil => exact .inl rfl
  | cons item body ih =>
    obtain ⟨hitem, hbody⟩ := not_or.mp (List.mem_cons.not.mp hf)
    have hends := perform_ends item (body ++ [.finish]) s
    rw [List.cons_append, run_cons] at hidle hok ⊢
    cases hT : perform item (body ++ [.finish]) s with
    | stop t =>
      rw [hT] at hidle hok
      exact .inr (shadow_zero_of_perform_stop (Ne.symm hitem) ha hT hidle hok)
    | go t =>
      rw [hT] at hidle hok hends
      obtain ⟨hgoes, -, -, -, -, -, hshadow, -⟩ := hends
      have written : shadowAfter (item :: (body ++ [.finish])) s.shadow = shadowAfter (body ++ [.finish]) t.shadow := by
        rw [hshadow, ← shadowAfter_append]
        rfl
      rw [written]
      exact ih hbody (hgoes.active.trans ha) hidle hok

/-- An operation in progress waits; what is left of its sequence completes at its end only, and with what the registers hold
of the part before it, its shadow writes are the whole sequence's. -/
theorem left_of_inv {s : State} {i : Instr} (h : s.Inv) (ha : s.active = true) (hi : s.inOperation i) :
    ∃ x left, s.pend = some x ∧ s.seq = left ++ [.finish] ∧ .finish ∉ left
      ∧ shadowAfter s.seq s.shadow = (operationEffect i s).shadow := by
  obtain ⟨-, htrack, -⟩ := h
  obtain ⟨j, done, hj, hr, hw, hplace⟩ := htrack ha
  obtain rfl := hi.unique hj
  have hb := hi.isBus
  obtain ⟨x, hp, -, hs⟩ | ⟨n, hp, hs, hhead, -⟩ := hplace
  · obtain ⟨left, hleft, hf, -⟩ := sequence_rest hb hr hs
    exact ⟨x, left, hp, hleft, hf, congrArg State.shadow (afterWrites_left hb hr hs hw)⟩
  · obtain ⟨rest, hrest⟩ := List.head?_eq_some_iff.mp hhead
    rw [hrest] at hs
    obtain ⟨left, rfl, hf, -⟩ := sequence_rest hb hr hs
    exact ⟨_, .issue .pinGet :: left, hp, hrest, by simp [hf],
      hrest ▸ congrArg State.shadow (afterWrites_left hb hr hs hw)⟩

/-- An operation that writes RAM leaves the shadows of a RAM write, whatever they were. -/
theorem operationEffect_shadow_of_writesRam {i : Instr} (hw : writesRam i = true) (s : State) :
    ∃ r, (operationEffect i s).shadow = shadowOf r := by
  cases i with
  | updateFrame _ | updatePartialFrame _ _ _ _ _ | updateColorFrame _ _ | updateAchromaticFrame _
  | updateChromaticFrame _ | updateAndDisplayFrame _ | clearFrame => exact ⟨_, rfl⟩
  | _ => cases hw

/-- The operations that write RAM are host operations that run a sequence, and none of them is SET_LUT. -/
theorem host_of_writesRam {i : Instr} (hw : writesRam i = true) :
    i.isBus = false ∧ isRegisterOp i = false ∧ ∀ m, i ≠ .setLut m := by
  cases i with
  | updateFrame _ | updatePartialFrame _ _ _ _ _ | updateColorFrame _ _ | updateAchromaticFrame _
  | updateChromaticFrame _ | updateAndDisplayFrame _ | clearFrame => exact ⟨rfl, rfl, nofun⟩
  | _ => cases hw

/-- After the writes of an operation that writes RAM, as after an engine reset, the cursor is at the window's origin. -/
theorem cursor_at_origin {i : Instr} (hw : writesRam i = true) {s : State} {sh : Shadow}
    (h : sh = (operationEffect i s).shadow ∨ sh = Shadow.zero) : sh.winXS = sh.curX ∧ sh.winYS = sh.curY := by
  obtain rfl | rfl := h
  · obtain ⟨r, hr⟩ := operationEffect_shadow_of_writesRam hw s
    rw [hr]
    exact ⟨rfl, rfl⟩
  · exact ⟨rfl, rfl⟩

/-- Settles O48: the step runs the whole sequence, or what the invariant says is left of it, up to its completion. -/
theorem cursorAtTheWindowOrigin : Obligations.CursorAtTheWindowOrigin := by
  unfold Obligations.CursorAtTheWindowOrigin
  intro i s t hram hidle hok
  obtain ⟨hb, hr, hlut⟩ := host_of_writesRam hram
  refine ⟨fun ha hc hx => ?_, fun h ha hi hstep => ?_⟩ <;> apply cursor_at_origin hram (s := s)
  · obtain ⟨code, hcode, -⟩ | ⟨-, rfl⟩ := exec_cases hb hr ha hx
    · exact absurd (hc.symm.trans hcode) nofun
    · obtain ⟨body, hbody, hf, -⟩ := sequence_body hb hr s
      have effect : shadowAfter (sequenceOf i s) s.shadow = (operationEffect i s).shadow :=
        (congrArg State.shadow (operationEffect_eq_afterWrites hb fun m hm => absurd hm (hlut m))).symm
      rw [← effect]
      rw [hbody] at hidle hok ⊢
      exact shadow_of_run_completed (s := s.accept i) hf rfl hidle hok
  · obtain ⟨x, left, hp, hseq, hf, effect⟩ := left_of_inv h ha hi
    rw [step_of_active ha, resume_of_pend hp] at hstep
    cases hstep
    rw [← effect]
    rw [hseq, ← List.cons_append] at hidle hok ⊢
    exact shadow_of_run_completed (s := { s with seq := [] }) (body := .issue x :: left) (by simp [hf]) ha hidle hok

end Sys2Proof.Machine
end

section
/-! O14 to O17 (spec/43_lifecycle.md R190, R192, R194, R196, R198). An operation whose answers are all Ok and idle completes with
the events of its sequence and its effect on the registers; the events and the count of answers are read off the sequence piece
by piece. SET_LUT samples no BUSY, so that Ok answers are enough for it. -/

namespace Sys2Proof.Machine

/-! The events of a sequence. -/

/-- The events of a sequence whose answers are all Ok and idle. -/
def idleEvents (items : List Item) : List Event := (transactionsOf items).map idleEvent

@[simp] theorem idleEvents_append (a b : List Item) : idleEvents (a ++ b) = idleEvents a ++ idleEvents b := by
  simp [idleEvents]

@[simp] theorem idleEvents_nil : idleEvents [] = [] := rfl
@[simp] theorem idleEvents_latch (w : ShadowWrite) (a : List Item) : idleEvents (.latch w :: a) = idleEvents a := rfl
@[simp] theorem idleEvents_compose (v : Byte) (a : List Item) : idleEvents (.compose v :: a) = idleEvents a := rfl
@[simp] theorem idleEvents_setPower (p : PowerState) (a : List Item) : idleEvents (.setPower p :: a) = idleEvents a := rfl
@[simp] theorem idleEvents_finish (a : List Item) : idleEvents (.finish :: a) = idleEvents a := rfl

@[simp] theorem idleEvents_waitUntilIdle : idleEvents waitUntilIdle = evWaitOk := rfl
@[simp] theorem idleEvents_hardwareReset (lowUs highUs : Nat) : idleEvents (hardwareReset lowUs highUs) =
    evPin .rstN .low ++ evDelay lowUs ++ evPin .rstN .high ++ evDelay highUs := rfl
@[simp] theorem idleEvents_sendCommand (op : Byte) : idleEvents (sendCommand op) = evCmd op := rfl
@[simp] theorem idleEvents_sendCommandWithData (op : Byte) (bytes : List Byte) :
    idleEvents (sendCommandWithData op bytes) = evCmd op ++ evDat bytes := by
  simp [sendCommandWithData, idleEvents, sendCommand, sendData, idleEvent, evCmd, evDat, evPin, evBytes, okEvent]
@[simp] theorem idleEvents_setRamArea (r : Rect) : idleEvents (setRamArea r) = evArea r := by
  simp [setRamArea, setRamXWindow, setRamYWindow, evArea]
@[simp] theorem idleEvents_setRamAddressCounters (x y : Nat) :
    idleEvents (setRamAddressCounters x y) = evCounters x y := by
  simp [setRamAddressCounters, setRamXCounter, setRamYCounter, evCounters]

/-! How many answers a piece takes. -/

@[simp] theorem askedCount_finish (a : List Item) : askedCount (.finish :: a) = askedCount a := rfl
@[simp] theorem askedCount_waitUntilIdle : askedCount waitUntilIdle = 1 := rfl
@[simp] theorem askedCount_hardwareReset (lowUs highUs : Nat) : askedCount (hardwareReset lowUs highUs) = 2 := rfl
@[simp] theorem askedCount_sendCommand (op : Byte) : askedCount (sendCommand op) = 4 := rfl
@[simp] theorem askedCount_sendCommandWithData (op : Byte) (bytes : List Byte) :
    askedCount (sendCommandWithData op bytes) = bytes.length + 7 := by
  simp [sendCommandWithData, sendData]
  omega
@[simp] theorem askedCount_setRamArea (r : Rect) : askedCount (setRamArea r) = 20 := by
  simp [setRamArea, setRamXWindow, setRamYWindow]
@[simp] theorem askedCount_setRamAddressCounters (x y : Nat) : askedCount (setRamAddressCounters x y) = 18 := by
  simp [setRamAddressCounters, setRamXCounter, setRamYCounter]

/-! Where a piece leaves the pins. -/

@[simp] theorem Pins.afterData_afterCommand (p : Pins) : p.afterCommand.afterData = p.afterData := rfl
@[simp] theorem Pins.afterData_afterData (p : Pins) : p.afterData.afterData = p.afterData := rfl

@[simp] theorem pinsAfter_nil (p : Pins) : pinsAfter [] p = p := rfl
@[simp] theorem pinsAfter_latch (w : ShadowWrite) (a : List Item) (p : Pins) :
    pinsAfter (.latch w :: a) p = pinsAfter a p := rfl
@[simp] theorem pinsAfter_compose (v : Byte) (a : List Item) (p : Pins) :
    pinsAfter (.compose v :: a) p = pinsAfter a p := rfl
@[simp] theorem pinsAfter_setPower (q : PowerState) (a : List Item) (p : Pins) :
    pinsAfter (.setPower q :: a) p = pinsAfter a p := rfl
@[simp] theorem pinsAfter_finish (a : List Item) (p : Pins) : pinsAfter (.finish :: a) p = pinsAfter a p := rfl
@[simp] theorem pinsAfter_hardwareReset (lowUs highUs : Nat) (p : Pins) :
    pinsAfter (hardwareReset lowUs highUs) p = { p with rstN := .high } := rfl
@[simp] theorem pinsAfter_waitUntilIdle (p : Pins) : pinsAfter waitUntilIdle p = p := rfl
@[simp] theorem pinsAfter_sendCommand (op : Byte) (p : Pins) : pinsAfter (sendCommand op) p = p.afterCommand := rfl
@[simp] theorem pinsAfter_sendCommandWithData (op : Byte) (bytes : List Byte) (p : Pins) :
    pinsAfter (sendCommandWithData op bytes) p = p.afterData := by
  simp [sendCommandWithData, sendCommand, sendData, Pins.afterData]
@[simp] theorem pinsAfter_setRamArea (r : Rect) (p : Pins) : pinsAfter (setRamArea r) p = p.afterData := by
  simp [setRamArea, setRamXWindow, setRamYWindow]
@[simp] theorem pinsAfter_setRamAddressCounters (x y : Nat) (p : Pins) :
    pinsAfter (setRamAddressCounters x y) p = p.afterData := by
  simp [setRamAddressCounters, setRamXCounter, setRamYCounter]

/-! Operations whose answers are all Ok and idle. -/

/-- An operation other than SET_LUT that passes its pre-checks and hears Ok and idle to its end. -/
theorem exec_idle {i : Instr} {s : State} {items : List Item} {more : List Move} (hs : sequenceOf i s = items)
    (hb : i.isBus = false) (hr : isRegisterOp i = false) (hi : ∀ m, i ≠ .setLut m) (ha : s.active = false)
    (hc : preCheck i s = none) (h : s.hearsIdle (askedCount items) more) :
    exec i s = .next (((operationEffect i s).after (idleEvents items) (pinsAfter items s.pins) more).ended .ok) := by
  obtain ⟨body, rfl, hf, hd⟩ : ∃ body : List Item, items = body ++ [.finish] ∧ .finish ∉ body ∧ delaysInside body :=
    hs ▸ sequence_body hb hr s
  have effect : operationEffect i s = s.afterWrites body := by
    rw [operationEffect_eq_afterWrites hb fun m hm => absurd hm (hi m), hs, State.afterWrites_append]
    rfl
  have heard : s.hearsIdle (askedCount body) more := by simpa using h
  rw [exec_operation hb hr fun m hm => absurd hm (hi m), hc, hs, startOperation_idle ha hf hd heard, effect]
  simp only [idleEvents_append, idleEvents_finish, idleEvents_nil, List.append_nil, pinsAfter_append, pinsAfter_finish,
    pinsAfter_nil]
  rfl

theorem checkReady_of_ready {s : State} (h : s.pstate = .ready) : checkReady s = none := if_pos h

/-! INIT. -/

theorem profileOf_initDuc1 (rev : Rev) : (profileOf rev).initDuc1 = true := by cases rev <;> rfl

/-- INIT's sequence with its payloads as R190 prints them. -/
theorem sequenceOf_init (s : State) : sequenceOf .init s =
    hardwareReset s.params.resetLowUs s.params.resetHighUs ++ waitUntilIdle ++ sendCommand 0x12#8 ++ waitUntilIdle
      ++ sendCommandWithData 0x01#8 [0xF9#8, 0x00#8, 0x00#8] ++ sendCommandWithData 0x11#8 [0x03#8]
      ++ setRamArea fullPanel ++ setRamAddressCounters 0 0 ++ sendCommandWithData 0x3C#8 [s.params.initBorder]
      ++ sendCommandWithData 0x18#8 [0x80#8] ++ sendCommandWithData 0x21#8 [0x80#8, 0x80#8] ++ waitUntilIdle
      ++ [.setPower .ready, .finish] := by
  simp only [sequenceOf, initBody, profileOf_initDuc1, if_true]
  rfl

theorem evArea_fullPanel : evArea fullPanel =
    evCmd 0x44#8 ++ evDat [0x00#8, 0x0F#8] ++ evCmd 0x45#8 ++ evDat [0x00#8, 0x00#8, 0xF9#8, 0x00#8] := rfl

theorem evCounters_origin : evCounters 0 0 =
    evWaitOk ++ evCmd 0x4E#8 ++ evDat [0x00#8] ++ evCmd 0x4F#8 ++ evDat [0x00#8, 0x00#8] := rfl

theorem shadowOf_fullPanel : shadowOf fullPanel =
    { winXS := 0#8, winXE := 15#8, winYS := 0#16, winYE := 249#16, curX := 0#8, curY := 0#16 } := rfl

/-- Settles O14: the events of INIT's sequence, and its effect. -/
theorem initMakesReady : Obligations.InitMakesReady := by
  unfold Obligations.InitMakesReady
  intro s more ha h
  rw [exec_idle (sequenceOf_init s) rfl rfl nofun ha rfl (more := more) (by simpa using h)]
  simp [operationEffect, shadowOf_fullPanel, evArea_fullPanel, evCounters_origin, State.after, State.ended,
    Pins.afterCommand, Pins.afterData]

/-! SLEEP. -/

theorem sequenceOf_sleep_v4 {s : State} (hv : s.rev = .v4) : sequenceOf .sleep s =
    waitUntilIdle ++ [.compose (composeDuc2 s.params sleepActions)]
      ++ sendCommandWithData 0x22#8 [composeDuc2 s.params sleepActions] ++ sendCommand 0x20#8
      ++ sendCommandWithData 0x10#8 [s.params.deepSleepCode] ++ [.setPower .sleeping, .finish] := by
  simp [sequenceOf, sleepBody, sleepActivation, displayUpdateControl2, masterActivation, deepSleepMode, hv, profileOf]

theorem sequenceOf_sleep_legacy {s : State} (hv : s.rev = .legacy) : sequenceOf .sleep s =
    waitUntilIdle ++ sendCommandWithData 0x10#8 [s.params.deepSleepCode] ++ [.setPower .sleeping, .finish] := by
  simp [sequenceOf, sleepBody, sleepActivation, deepSleepMode, hv, profileOf]

/-- Settles O15: the sequence of each profile, and its effect. -/
theorem sleepMakesSleeping : Obligations.SleepMakesSleeping := by
  unfold Obligations.SleepMakesSleeping
  intro s more ha hready
  refine ⟨holdsExactly_sleepBits s.params, fun hv h => ?_, fun hv h => ?_⟩
  · rw [exec_idle (sequenceOf_sleep_v4 hv) rfl rfl nofun ha (checkReady_of_ready hready) (more := more) (by simpa using h)]
    simp [operationEffect, hv, State.after, State.ended]
  · rw [exec_idle (sequenceOf_sleep_legacy hv) rfl rfl nofun ha (checkReady_of_ready hready) (more := more) (by simpa using h)]
    simp [operationEffect, hv, State.after, State.ended]

/-! SET_LUT. -/

theorem length_lutPayload {p : Params} (h : p.wf = true) (m : RefreshMode) : (lutPayload p m).length = p.lutLen := by
  simp only [Params.wf, Bool.and_eq_true, beq_iff_eq] at h
  obtain ⟨⟨⟨-, hfull⟩, hpartial⟩, -⟩ := h
  cases m with
  | fullRefresh => exact hfull
  | partialRefresh => exact hpartial

theorem length_sendCommandWithData (op : Byte) (bytes : List Byte) :
    (sendCommandWithData op bytes).length = bytes.length + 7 := by
  simp [sendCommandWithData, sendCommand, sendData, frame]

/-- On V4 from Ready SET_LUT runs the 0x32 frames and then its write of REFRESH (R196). -/
theorem exec_setLut_v4 {s : State} (ha : s.active = false) (hv : s.rev = .v4) (hready : s.pstate = .ready)
    (hwf : s.params.wf = true) (mode : RefreshMode) :
    exec (.setLut mode) s = .next (run (sendCommandWithData 0x32#8 (lutPayload s.params mode)
      ++ [.setRefresh mode, .finish]) (s.accept (.setLut mode))).state := by
  rw [exec_operation rfl rfl fun m _ => lutPayload_ne_nil hwf m]
  simp [startOperation, preCheck, checkReady_of_ready hready, sequenceOf, setLutBody, writeLut, profileOf, hv, ha]

/-- Settles O16: REFRESH is written behind the frames, so an error in them leaves it; on LEGACY the sequence is the completion
alone. -/
theorem setLutSelectsTheRefreshMode : Obligations.SetLutSelectsTheRefreshMode := by
  unfold Obligations.SetLutSelectsTheRefreshMode
  intro s mode more ha
  refine ⟨fun hv hready hwf h => ?_, fun ms e hv hready hwf hs hms hl => ?_, fun hv => ?_⟩
  · have heard : (s.accept (.setLut mode)).hearsOk ((lutPayload s.params mode).length + 7) more := by
      rwa [length_lutPayload hwf, Nat.add_comm]
    rw [exec_setLut_v4 ha hv hready hwf, run_sendCommandWithData _ _ _ _ more heard rfl, run_setRefresh, run_finish]
    cases mode <;> rfl
  · have inFrames : ms.length < (sendCommandWithData 0x32#8 (lutPayload s.params mode)).length := by
      rwa [length_sendCommandWithData, length_lutPayload hwf, Nat.add_comm]
    obtain ⟨evs, pins, hstop⟩ := run_framing_err (fun _ => isFraming_of_mem_sendCommandWithData) hms inFrames
      [.setRefresh mode, .finish] (s.accept (.setLut mode)) hs
    refine ⟨((s.accept (.setLut mode)).after evs pins more).raise .busError e, ?_, rfl, rfl, rfl, rfl⟩
    rw [exec_setLut_v4 ha hv hready hwf, hstop]
    rfl
  · have noLut : ¬(profileOf s.rev).supportsLut = true := by simp [hv, profileOf]
    rw [exec, execSetLut, if_neg noLut, startOperation, if_neg (by simp [ha])]
    rfl

/-! WAIT_IDLE. -/

/-- Settles O17: the poll is the whole sequence. -/
theorem waitIdleCompletes : Obligations.WaitIdleCompletes := by
  unfold Obligations.WaitIdleCompletes
  intro s more ha h
  exact exec_idle (i := .waitIdle) rfl rfl rfl nofun ha rfl h

end Sys2Proof.Machine
end

section
/-! O22 to O25, O27, O28 and O53 (spec/44_frame_ops.md R210 to R224). The RAM writes, the DUC2 byte and the activation add
their events, their answers and their pins to those of the pieces above, so that each frame operation's sequence is read off
piece by piece. CLEAR_FRAME's full-panel writes then clear both banks of the observer. -/

namespace Sys2Proof.Machine

/-! RAM writes, piece by piece. -/

@[simp] theorem idleEvents_ramWriteA (r : Rect) (bytes : List Byte) :
    idleEvents (ramWriteA r bytes) = evRamWrite 0x24#8 r bytes := by
  simp [ramWriteA, openWindow, writeRamBw, evRamWrite]
@[simp] theorem idleEvents_ramWriteC (r : Rect) (bytes : List Byte) :
    idleEvents (ramWriteC r bytes) = evRamWrite 0x26#8 r bytes := by
  simp [ramWriteC, openWindow, writeRamRed, evRamWrite]
@[simp] theorem askedCount_ramWriteA (r : Rect) (bytes : List Byte) :
    askedCount (ramWriteA r bytes) = 45 + bytes.length := by
  simp [ramWriteA, openWindow, writeRamBw]
  omega
@[simp] theorem askedCount_ramWriteC (r : Rect) (bytes : List Byte) :
    askedCount (ramWriteC r bytes) = 45 + bytes.length := by
  simp [ramWriteC, openWindow, writeRamRed]
  omega
@[simp] theorem pinsAfter_ramWriteA (r : Rect) (bytes : List Byte) (p : Pins) :
    pinsAfter (ramWriteA r bytes) p = p.afterData := by
  simp [ramWriteA, openWindow, writeRamBw]
@[simp] theorem pinsAfter_ramWriteC (r : Rect) (bytes : List Byte) (p : Pins) :
    pinsAfter (ramWriteC r bytes) p = p.afterData := by
  simp [ramWriteC, openWindow, writeRamRed]

/-! The bodies of the frame operations, piece by piece. -/

@[simp] theorem Pins.afterCommand_afterData (p : Pins) : p.afterData.afterCommand = p.afterCommand := rfl

theorem length_fill (s : State) (n : Nat) : (fill s n).length = n := List.length_replicate

@[simp] theorem idleEvents_updateFrameBody (a : List Byte) (s : State) : idleEvents (updateFrameBody a s) =
    evRamWrite 0x24#8 fullPanel a
      ++ if s.refresh = .fullRefresh then evRamWrite 0x26#8 fullPanel (fill s planeSize) else [] := by
  simp only [updateFrameBody, idleEvents_append, idleEvents_ramWriteA]
  split <;> simp
@[simp] theorem askedCount_updateFrameBody (a : List Byte) (s : State) : askedCount (updateFrameBody a s) =
    45 + a.length + if s.refresh = .fullRefresh then 4045 else 0 := by
  simp only [updateFrameBody, askedCount_append, askedCount_ramWriteA]
  split <;> simp [length_fill, planeSize, rowBytes, panelWidth, panelHeight]
@[simp] theorem pinsAfter_updateFrameBody (a : List Byte) (s : State) (p : Pins) :
    pinsAfter (updateFrameBody a s) p = p.afterData := by
  simp only [updateFrameBody, pinsAfter_append, pinsAfter_ramWriteA]
  split <;> simp

@[simp] theorem idleEvents_displayBody (s : State) : idleEvents (displayBody s) =
    (if s.rev = .v4 then evCmd 0x22#8 ++ evDat [composeDuc2 s.params displayActions] else []) ++ evCmd 0x20#8
      ++ evWaitOk := by
  simp only [displayBody, displayUpdateControl2, masterActivation, usesDuc2_iff]
  split <;> simp
@[simp] theorem askedCount_displayBody (s : State) : askedCount (displayBody s) = if s.rev = .v4 then 13 else 5 := by
  simp only [displayBody, displayUpdateControl2, masterActivation, usesDuc2_iff]
  split <;> simp
@[simp] theorem pinsAfter_displayBody (s : State) (p : Pins) : pinsAfter (displayBody s) p = p.afterCommand := by
  simp only [displayBody, displayUpdateControl2, masterActivation, usesDuc2_iff]
  split <;> simp

/-- The events of one pass of CLEAR_FRAME (R224). -/
def evClearPass (bg : Byte) : List Event :=
  evRamWrite 0x24#8 fullPanel (List.replicate 4000 bg) ++ evRamWrite 0x26#8 fullPanel (List.replicate 4000 bg)

@[simp] theorem idleEvents_clearPass (s : State) : idleEvents (clearPass s) = evClearPass s.bg := by
  rw [clearPass, idleEvents_append, idleEvents_ramWriteA, idleEvents_ramWriteC]
  rfl
@[simp] theorem askedCount_clearPass (s : State) : askedCount (clearPass s) = 8090 := by
  rw [clearPass, askedCount_append, askedCount_ramWriteA, askedCount_ramWriteC, length_fill]
  rfl
@[simp] theorem pinsAfter_clearPass (s : State) (p : Pins) : pinsAfter (clearPass s) p = p.afterData := by
  simp [clearPass]

@[simp] theorem idleEvents_clearBody (s : State) : idleEvents (clearBody s) =
    evClearPass s.bg ++ if s.refresh = .fullRefresh then evClearPass s.bg else [] := by
  simp only [clearBody, idleEvents_append, idleEvents_clearPass]
  split <;> simp
@[simp] theorem askedCount_clearBody (s : State) :
    askedCount (clearBody s) = 8090 + if s.refresh = .fullRefresh then 8090 else 0 := by
  simp only [clearBody, askedCount_append, askedCount_clearPass]
  split <;> simp
@[simp] theorem pinsAfter_clearBody (s : State) (p : Pins) : pinsAfter (clearBody s) p = p.afterData := by
  simp only [clearBody, pinsAfter_append, pinsAfter_clearPass]
  split <;> simp

/-- Chromatic bytes are complemented on LEGACY only (spec/20_memory.md R65). -/
theorem chroma_eq (rev : Rev) (bytes : List Byte) :
    chroma rev bytes = if rev = .legacy then bytes.map (fun v => ~~~v) else bytes := by
  cases rev <;> rfl

@[simp] theorem length_chroma (rev : Rev) (bytes : List Byte) : (chroma rev bytes).length = bytes.length := by
  rw [chroma_eq]
  split <;> simp

/-! Frame operations whose answers are all Ok and idle. -/

/-- An operation with this body, its pre-checks passed, leaves its effect, the body's events and the body's pins. -/
theorem exec_body_idle {i : Instr} {s : State} {body : List Item} {more : List Move}
    (hs : sequenceOf i s = body ++ [.finish]) (hi : i.isBus = false ∧ isRegisterOp i = false ∧ ∀ m, i ≠ .setLut m)
    (ha : s.active = false) (hc : preCheck i s = none) {n : Nat} (h : s.hearsIdle n more) (hn : askedCount body = n) :
    exec i s = .next (((operationEffect i s).after (idleEvents body) (pinsAfter body s.pins) more).ended .ok) := by
  subst hn
  obtain ⟨hb, hr, hlut⟩ := hi
  rw [exec_idle hs hb hr hlut ha hc (by simpa using h)]
  simp

theorem checkLength_of_length {buf : List Byte} {n : Nat} (h : buf.length = n) : checkLength buf n = none := if_pos h

/-- The pre-checks of an operation with one full-panel buffer (spec/60_exceptions.md R256). -/
theorem fullFrame_passes {s : State} {a : List Byte} (hready : s.pstate = .ready) (hlen : a.length = planeSize) :
    firstFailed [checkReady s, checkLength a planeSize] = none := by
  rw [checkReady_of_ready hready, checkLength_of_length hlen]
  rfl

/-- Settles O22: in Full mode the body has the mirror's RAM write too. -/
theorem updateFrameWritesAndMirrors : Obligations.UpdateFrameWritesAndMirrors := by
  unfold Obligations.UpdateFrameWritesAndMirrors
  intro s a more ha hready hlen
  refine ⟨fun hm h => ?_, fun hm h => ?_⟩ <;>
    rw [exec_body_idle (i := .updateFrame a) rfl (host_of_writesRam rfl) ha (fullFrame_passes hready hlen) h
      (by simp [hlen, hm]), idleEvents_updateFrameBody, pinsAfter_updateFrameBody]
  · rw [if_pos hm]
    rfl
  · rw [if_neg (by simp [hm]), List.append_nil]
    rfl

/-- Settles O23: the geometry and the length are what the pre-checks ask, and `rect` is R184's rectangle. -/
theorem partialFrameWritesItsRectangle : Obligations.PartialFrameWritesItsRectangle := by
  unfold Obligations.PartialFrameWritesItsRectangle
  intro s x y w h a more ha hv hready hw hh hx hy harea hlen rect
  have supported : checkPartial s = none := by simp [checkPartial, hv, profileOf]
  have geometry : checkGeometry x y w h = none := if_pos ⟨hw, hh, hx, hy, harea⟩
  have passes : preCheck (.updatePartialFrame x y w h a) s = none := by
    rw [preCheck, supported, checkReady_of_ready hready, geometry, checkLength_of_length hlen]
    rfl
  refine ⟨fun hm hidle => ?_, fun hm hidle => ?_⟩
  · have body : updatePartialBody x y w h a s = ramWriteA rect a ++ ramWriteC rect (fill s a.length) := by
      rw [updatePartialBody, if_pos hm]
      rfl
    rw [exec_body_idle rfl (host_of_writesRam rfl) ha passes hidle (by simp [body, length_fill]; omega), body,
      idleEvents_append, idleEvents_ramWriteA, idleEvents_ramWriteC, pinsAfter_append, pinsAfter_ramWriteA,
      pinsAfter_ramWriteC]
    rfl
  · have body : updatePartialBody x y w h a s = ramWriteA rect a := by
      rw [updatePartialBody, if_neg (by simp [hm]), List.append_nil]
      rfl
    rw [exec_body_idle rfl (host_of_writesRam rfl) ha passes hidle (by simp [body]), body, idleEvents_ramWriteA,
      pinsAfter_ramWriteA]
    rfl

/-- Settles O24: REFRESH is not read, and the chromatic bytes are R65's. -/
theorem colorFramesWriteTheirBanks : Obligations.ColorFramesWriteTheirBanks := by
  unfold Obligations.ColorFramesWriteTheirBanks
  intro s a b more ha hready hlenA hlenB
  have passes : preCheck (.updateColorFrame a b) s = none := by
    rw [preCheck, checkReady_of_ready hready, checkLength_of_length (n := planeSize) hlenA,
      checkLength_of_length (n := planeSize) hlenB]
    rfl
  simp only [← chroma_eq]
  refine ⟨fun h => ?_, fun h => ?_, fun h => ?_⟩
  · rw [exec_body_idle (i := .updateColorFrame a b) rfl (host_of_writesRam rfl) ha passes h
      (by simp [updateColorBody, hlenA, hlenB]), updateColorBody, idleEvents_append, idleEvents_ramWriteA,
      idleEvents_ramWriteC, pinsAfter_append, pinsAfter_ramWriteA, pinsAfter_ramWriteC]
    rfl
  · rw [exec_body_idle (i := .updateAchromaticFrame a) rfl (host_of_writesRam rfl) ha (fullFrame_passes hready hlenA) h
      (by simp [hlenA]), idleEvents_ramWriteA, pinsAfter_ramWriteA]
    rfl
  · rw [exec_body_idle (i := .updateChromaticFrame b) rfl (host_of_writesRam rfl) ha (fullFrame_passes hready hlenB) h
      (by simp [hlenB]), idleEvents_ramWriteC, pinsAfter_ramWriteC]
    rfl

/-- Settles O25: only V4 has the composition and its frame. -/
theorem displayFrameActivates : Obligations.DisplayFrameActivates := by
  unfold Obligations.DisplayFrameActivates
  intro s more ha hready
  refine ⟨holdsExactly_displayBits s.params, fun hv h => ?_, fun hv h => ?_⟩ <;>
    rw [exec_body_idle (i := .displayFrame) rfl ⟨rfl, rfl, nofun⟩ ha (checkReady_of_ready hready) h (by simp [hv])] <;>
    simp [operationEffect, hv, State.after, State.ended]

/-- Settles O27: the body is UPDATE_FRAME's and then DISPLAY_FRAME's. -/
theorem updateAndDisplayCompletes : Obligations.UpdateAndDisplayCompletes := by
  unfold Obligations.UpdateAndDisplayCompletes
  intro s a more ha hready hlen h mirror duc2
  refine ⟨holdsExactly_displayBits s.params, ?_⟩
  have count : askedCount (updateFrameBody a s ++ displayBody s) =
      (if s.refresh = .fullRefresh then 8090 else 4045) + if s.rev = .v4 then 13 else 5 := by
    rw [askedCount_append, askedCount_updateFrameBody, askedCount_displayBody, hlen]
    split <;> rfl
  rw [exec_body_idle (i := .updateAndDisplayFrame a) rfl (host_of_writesRam rfl) ha (fullFrame_passes hready hlen) h
    count]
  simp only [idleEvents_append, idleEvents_updateFrameBody, idleEvents_displayBody, pinsAfter_append,
    pinsAfter_updateFrameBody, pinsAfter_displayBody, List.append_assoc]
  rfl

/-- What CLEAR_FRAME leaves when all its answers are Ok and idle; `more` of the transport's script is left. -/
def State.afterClear (s : State) (more : List Move) : State :=
  { (s.after (idleEvents (clearBody s)) s.pins.afterData more).ended .ok with shadow := shadowOf fullPanel }

theorem State.trace_afterClear (s : State) (more : List Move) :
    (s.afterClear more).trace = s.trace ++ idleEvents (clearBody s) := rfl

theorem exec_clearFrame_idle {s : State} {more : List Move} (ha : s.active = false) (hready : s.pstate = .ready) {n : Nat}
    (h : s.hearsIdle n more) (hn : askedCount (clearBody s) = n) : exec .clearFrame s = .next (s.afterClear more) := by
  rw [exec_body_idle (i := .clearFrame) rfl (host_of_writesRam rfl) ha (checkReady_of_ready hready) h hn,
    pinsAfter_clearBody]
  rfl

/-- Settles O28: the second pass adds the same events again. -/
theorem clearFrameFillsBothBanks : Obligations.ClearFrameFillsBothBanks := by
  unfold Obligations.ClearFrameFillsBothBanks
  intro s more ha hready pass
  refine ⟨fun hm h => ?_, fun hm h => ?_⟩ <;>
    rw [exec_clearFrame_idle ha hready h (by simp [hm]), State.afterClear, idleEvents_clearBody]
  · rw [if_pos hm]
    rfl
  · rw [if_neg (by simp [hm]), List.append_nil]
    rfl

/-! Clearing in the observer. -/

theorem observe_append (trace evs : List Event) : observe (trace ++ evs) = evs.foldl Observer.see (observe trace) :=
  List.foldl_append

/-- A full-panel write puts nothing in doubt. -/
theorem lost_of_fullPanelWrite {o : Observer} (isA : Bool) {data : List Byte} (h : o.lost = false)
    (hl : data.length = 4000) : ((evRamWrite (ramOp isA) fullPanel data).foldl Observer.see o).lost = false := by
  rw [foldl_see_fullPanelWrite o isA data h hl.le]
  exact h

/-- Nothing is in doubt, and both banks hold `bg` everywhere (spec/20_memory.md R71). -/
structure Observer.Cleared (bg : Byte) (o : Observer) : Prop where
  notLost : o.lost = false
  banks : ∀ i, i < 4000 → o.bankA.read i = some bg ∧ o.bankC.read i = some bg

/-- Full-panel writes of `bg` to both banks clear them, whatever they held (R77). -/
theorem cleared_of_writes {o : Observer} {bg : Byte} {data : List Byte} (h : o.lost = false) (hl : data.length = 4000)
    (hdata : ∀ i, i < 4000 → data[i]? = some bg) :
    ((evRamWrite (ramOp true) fullPanel data ++ evRamWrite (ramOp false) fullPanel data).foldl Observer.see
      o).Cleared bg := by
  have midway := lost_of_fullPanelWrite true h hl
  obtain ⟨readA, -⟩ := fullPanelWrite_fills o true h hl
  obtain ⟨readC, keepsA, -⟩ := fullPanelWrite_fills _ false midway hl
  rw [List.foldl_append]
  refine ⟨lost_of_fullPanelWrite false midway hl, fun i hi => ⟨?_, (readC i hi).trans (hdata i hi)⟩⟩
  exact (congrArg (·.read i) keepsA).trans ((readA i hi).trans (hdata i hi))

/-- CLEAR_FRAME clears both banks, in its first pass and in its second (R224). -/
theorem cleared_of_clearBody {o : Observer} (s : State) (h : o.lost = false) :
    ((idleEvents (clearBody s)).foldl Observer.see o).Cleared s.bg := by
  have pass {o : Observer} (h : o.lost = false) : ((evClearPass s.bg).foldl Observer.see o).Cleared s.bg :=
    cleared_of_writes h List.length_replicate fun _ => List.getElem?_replicate_of_lt
  rw [idleEvents_clearBody, List.foldl_append]
  split
  · exact pass (pass h).notLost
  · rw [List.foldl_nil]
    exact pass h

/-- Settles O53: the second CLEAR_FRAME has the first one's sequence, and each clears both banks. -/
theorem clearFrameIsIdempotent : Obligations.ClearFrameIsIdempotent := by
  unfold Obligations.ClearFrameIsIdempotent
  intro s n more ha hready hn h hlost
  have count : askedCount (clearBody s) = n := by
    rw [hn, askedCount_clearBody]
    split <;> rfl
  obtain ⟨mid, first, second⟩ := State.hearsIdle_split h
  have once : (observe (s.afterClear mid).trace).Cleared s.bg := by
    rw [State.trace_afterClear, observe_append]
    exact cleared_of_clearBody s hlost
  have twice : (observe ((s.afterClear mid).afterClear more).trace).Cleared s.bg := by
    rw [State.trace_afterClear, observe_append]
    exact cleared_of_clearBody _ once.notLost
  exact ⟨s.afterClear mid, (s.afterClear mid).afterClear more, idleEvents (clearBody s),
    exec_clearFrame_idle ha hready first count, exec_clearFrame_idle rfl hready (second _ rfl rfl) count, rfl, rfl, rfl,
    rfl, State.trace_afterClear _ _, State.trace_afterClear _ _, once.banks, twice.banks⟩

end Sys2Proof.Machine
end

section
/-! O26 (spec/44_frame_ops.md R222). UPDATE_AND_DISPLAY_FRAME does what UPDATE_FRAME and then DISPLAY_FRAME do, transaction by
transaction: beside each of the two it holds another request, and more of a sequence, and its status code and POLLS may differ,
but nothing of that is read before it is written. -/

namespace Sys2Proof.Machine

/-! Two engines side by side. -/

/-- `v` holds what `w` holds, but for the request, the status code, POLLS and SEQ. Neither request is INIT's or SLEEP's, so a
failure leaves PSTATE; and POLLS differ only where every poll in `items`, which both are to run, has yet to start. -/
structure Alongside (items : List Item) (w v : State) : Prop where
  same : v = { w with req := v.req, code := v.code, polls := v.polls, seq := v.seq }
  power : isPowerRequest w.req = false ∧ isPowerRequest v.req = false
  polls : v.polls = w.polls ∨ Polled items

theorem Alongside.complete_eq {items : List Item} {w v : State} (h : Alongside items w v) : v.complete = w.complete := by
  rw [h.same]
  rfl

/-- An exception overwrites all that differs. -/
theorem Alongside.raise_eq {items : List Item} {w v : State} (h : Alongside items w v) (code : Status) (info : Nat) :
    v.raise code info = w.raise code info := by
  have pstate : powerAfter v.req code w.pstate = powerAfter w.req code w.pstate := by
    simp [powerAfter, failsPower, h.power]
  rw [h.same]
  simp only [State.raise, pstate]
  rfl

/-- How two engines side by side end a stretch: both go on with `rest`; both wait at the same place, ahead of `q` and `q'`; or
both have failed and hold the same. -/
inductive Abreast (rest q q' : List Item) : Turn → Turn → Prop
  | go {w v : State} (h : Alongside rest w v) (hseq : w.seq = [] ∧ v.seq = []) : Abreast rest q q' (.go w) (.go v)
  | waits {w v : State} {x : Transaction} {left : List Item} (h : Alongside (.issue x :: left) w v)
      (hx : w.pend = some x) (hleft : left = rest ∨ left = .issue .pinGet :: rest)
      (hseq : w.seq = left ++ q ∧ v.seq = left ++ q') : Abreast rest q q' (.stop w) (.stop v)
  | failed {w : State} (ha : w.active = false) (hc : w.code ≠ .ok) : Abreast rest q q' (.stop w) (.stop w)

/-- Both raise the same exception. -/
theorem Abreast.of_raise {items : List Item} {w v : State} (h : Alongside items w v) {code : Status} (hc : code ≠ .ok)
    (info : Nat) {rest q q' : List Item} : Abreast rest q q' (.stop (w.raise code info)) (.stop (v.raise code info)) :=
  h.raise_eq code info ▸ .failed rfl hc

/-- Both wait for the same transaction. -/
theorem Abreast.of_await {x : Transaction} {left : List Item} {w v : State} (h : Alongside (.issue x :: left) w v)
    (hseq : w.seq = [] ∧ v.seq = []) {rest : List Item} (hleft : left = rest ∨ left = .issue .pinGet :: rest)
    (q q' : List Item) : Abreast rest q q' (.stop (w.await x (left ++ q))) (.stop (v.await x (left ++ q'))) :=
  .waits ⟨congrArg (·.await x (left ++ q')) h.same, h.power, h.polls⟩ rfl hleft (by simp [State.await, hseq])

theorem Alongside.withEnv {items : List Item} {w v : State} (h : Alongside items w v) (env : Env) :
    Alongside items { w with env := env } { v with env := env } :=
  ⟨congrArg (fun u : State => { u with env := env }) h.same, h.power, h.polls⟩

theorem Alongside.record {items : List Item} {w v : State} (h : Alongside items w v) (t : Transaction) (a : Answer) :
    Alongside items (w.record t a) (v.record t a) :=
  ⟨congrArg (·.record t a) h.same, h.power, h.polls⟩

/-- What comes after an element that is no part of a poll. -/
theorem Alongside.after_other {item : Item} {rest : List Item} {w v : State} (h : Alongside (item :: rest) w v)
    (hi : item.isPoll = false) : Alongside rest w v :=
  ⟨h.same, h.power, h.polls.imp_right (polled_cons hi).mp⟩

/-- A poll that goes on has started, so that both have counted the same samples. -/
theorem Alongside.polls_eq {rest : List Item} {w v : State} (h : Alongside (.issue .pinGet :: rest) w v) :
    v.polls = w.polls := by
  refine h.polls.resolve_right fun hp => ?_
  cases hp with
  | other hi _ => cases hi

/-- A busy sample that has been counted (spec/40_framer.md R130). -/
theorem abreast_busySample {rest : List Item} (q q' : List Item) {w v : State}
    (h : Alongside (.issue .pinGet :: rest) w v) (hseq : w.seq = [] ∧ v.seq = []) :
    Abreast rest q q' (busySample (rest ++ q) w) (busySample (rest ++ q') v) := by
  have params : v.params = w.params := by rw [h.same]
  unfold busySample
  rw [h.polls_eq, params]
  cases limitReached w.params.busyPollLimit (w.polls.getD 0) with
  | true => exact .of_raise h (code := .panelTimeout) nofun 0
  | false => exact .of_await (left := .issue .pinGet :: rest) ⟨h.same, h.power, .inl h.polls_eq⟩ hseq (.inr rfl) q q'

/-- A sample of the busy poll. -/
theorem abreast_sampled {rest : List Item} (q q' : List Item) {w v : State} (h : Alongside (.issue .pinGet :: rest) w v)
    (hseq : w.seq = [] ∧ v.seq = []) (l : Level) :
    Abreast rest q q' (sampled l (rest ++ q) w) (sampled l (rest ++ q') v) := by
  have sameLevel : isBusy v.rev l = isBusy w.rev l := by rw [h.same]
  unfold sampled
  rw [sameLevel, h.polls_eq]
  cases isBusy w.rev l with
  | false => exact .go ⟨h.same, h.power, .inl h.polls_eq⟩ hseq
  | true =>
    refine abreast_busySample q q' ⟨?_, h.power, .inl rfl⟩ hseq
    exact congrArg (fun u : State => { u with polls := some (w.polls.getD 0 + 1) }) h.same

/-- The answer to a transaction, no engine reset coming. -/
theorem abreast_settle {rest : List Item} (q q' : List Item) {t : Transaction} {w v : State}
    (h : Alongside (.issue t :: rest) w v) (hseq : w.seq = [] ∧ v.seq = []) (hn : w.noReset) :
    Abreast rest q q' (settle t (rest ++ q) w) (settle t (rest ++ q') v) := by
  have sameEnv : v.env = w.env := by rw [h.same]
  have noReset : ∀ env, w.env.next ≠ some (.reset, env) := fun env he => (Env.next_mem he).1.elim hn.1 hn.2
  cases ht : t.isAsked with
  | false =>
    cases t with
    | delay us =>
      rw [settle_delay us _ noReset, settle_delay us _ (sameEnv ▸ noReset)]
      exact .go ((h.record (.delay us) .ok).after_other rfl) hseq
    | _ => cases ht
  | true =>
    rw [settle_asked ht, settle_asked ht, sameEnv]
    cases hnext : w.env.next with
    | none => exact .of_await h hseq (.inl rfl) q q'
    | some me =>
      obtain ⟨m, env⟩ := me
      have taken := h.withEnv env
      cases m with
      | err e => exact .of_raise (taken.record t (.err e)) (code := .busError) nofun e
      | wait => exact .of_await taken hseq (.inl rfl) q q'
      | reset => exact absurd hnext (noReset env)
      | ok l =>
        cases t with
        | delay us => cases ht
        | pinSet p level =>
          have recorded := (taken.record (.pinSet p level) .ok).after_other rfl
          exact .go ⟨congrArg (·.setPin p level) recorded.same, recorded.power, recorded.polls⟩ hseq
        | byteOut b => exact .go ((taken.record (.byteOut b) .ok).after_other rfl) hseq
        | pinGet => exact abreast_sampled q q' (taken.record .pinGet (.level l)) hseq l

/-- One element of a sequence; the writes between the transactions are the same in both. -/
theorem abreast_perform {item : Item} {rest : List Item} (q q' : List Item) {w v : State}
    (h : Alongside (item :: rest) w v) (hseq : w.seq = [] ∧ v.seq = []) (hf : item ≠ .finish) (hn : w.noReset) :
    Abreast rest q q' (perform item (rest ++ q) w) (perform item (rest ++ q') v) := by
  have later (hi : item.isPoll = false) : v.polls = w.polls ∨ Polled rest := h.polls.imp_right (polled_cons hi).mp
  cases item with
  | issue t => exact abreast_settle q q' h hseq hn
  | finish => exact absurd rfl hf
  | startPoll => exact .go ⟨congrArg (fun u : State => { u with polls := some 0 }) h.same, h.power, .inl rfl⟩ hseq
  | latch x => exact .go ⟨congrArg (·.latch x) h.same, h.power, later rfl⟩ hseq
  | compose c => exact .go ⟨congrArg (fun u : State => { u with duc2Acc := c }) h.same, h.power, later rfl⟩ hseq
  | setPower p => exact .go ⟨congrArg (fun u : State => { u with pstate := p }) h.same, h.power, later rfl⟩ hseq
  | setRefresh m => exact .go ⟨congrArg (fun u : State => { u with refresh := m }) h.same, h.power, later rfl⟩ hseq

/-! Until one of them ends. -/

/-- A stretch inside an operation: it neither completes it nor writes PSTATE. -/
def Inner (items : List Item) : Prop := .finish ∉ items ∧ ∀ p, .setPower p ∉ items

theorem inner_cons {item : Item} {items : List Item} :
    Inner (item :: items) ↔ (.finish ≠ item ∧ ∀ p, .setPower p ≠ item) ∧ Inner items := by
  simp only [Inner, List.mem_cons, not_or, forall_and]
  tauto

theorem inner_issue (t : Transaction) {items : List Item} : Inner (.issue t :: items) ↔ Inner items := by
  simp [inner_cons]

/-- An operation in progress from Ready on the engine of `s`, with no move of the host's and no engine reset to come. -/
structure Serving (s w : State) : Prop where
  active : w.active = true
  ready : w.pstate = .ready
  rev : w.rev = s.rev
  params : w.params = s.params
  host : w.host = []
  noReset : w.noReset

theorem Serving.of_kept {items : List Item} {s w w' : State} (hw : Serving s w) (hk : Kept items w w')
    (ha : w'.active = w.active) (hp : w'.pstate = w.pstate) : Serving s w' :=
  ⟨ha.trans hw.active, hp.trans hw.ready, hk.rev.trans hw.rev, hk.params.trans hw.params, hk.host.trans hw.host, hk.noReset⟩

/-- `w` performs an operation and `v` one with `d` before its completion: both wait at the same place of what they have in
common; or that has failed, and both hold the same; or `w` has completed, and `v` has gone on with `d`. -/
inductive Onward (s : State) (d : List Item) : State → State → Prop
  | waits {w v : State} {x : Transaction} {left : List Item} (h : Alongside (.issue x :: left) w v) (hw : Serving s w)
      (hl : Inner left) (hx : w.pend = some x) (hseq : w.seq = left ++ [.finish] ∧ v.seq = left ++ (d ++ [.finish])) :
      Onward s d w v
  | failed {w : State} (ha : w.active = false) (hc : w.code ≠ .ok) (hh : w.host = []) : Onward s d w w
  | completed {w v : State} (h : Alongside [] w v) (hw : Serving s w) (hp : w.pend = none)
      (hseq : w.seq = [] ∧ v.seq = []) : Onward s d w.complete (run (d ++ [.finish]) v).state

/-- What both have in common is run side by side, up to the completion of the one and to `d` in the other. -/
theorem onward_run {s : State} {items : List Item} (d : List Item) {w v : State} (h : Alongside items w v)
    (hw : Serving s w) (hi : Inner items) (hp : w.pend = none) (hseq : w.seq = [] ∧ v.seq = []) :
    Onward s d (run (items ++ [.finish]) w).state (run (items ++ (d ++ [.finish])) v).state := by
  induction items generalizing w v with
  | nil => exact .completed h hw hp hseq
  | cons item items ih =>
    obtain ⟨⟨hfinish, hpower⟩, hitems⟩ := inner_cons.mp hi
    have both := abreast_perform [.finish] (d ++ [.finish]) h hseq hfinish.symm hw.noReset
    have kept := perform_kept item (items ++ [.finish]) w hw.noReset
    have ends := perform_ends item (items ++ [.finish]) w
    have noPower : ∀ p, .setPower p ∉ [item] := by simpa using hpower
    rw [List.cons_append, List.cons_append, run_cons, run_cons]
    generalize perform item (items ++ [.finish]) w = turn at both kept ends ⊢
    generalize perform item (items ++ (d ++ [.finish])) v = turn' at both ⊢
    cases both with
    | go h' hseq' =>
      obtain ⟨goes, -⟩ := ends
      exact ih h' (hw.of_kept kept.toKept kept.active (kept.pstate noPower)) hitems (goes.pend hp) hseq'
    | waits h' hx hleft hseq' =>
      have active := (ends.resolve_right fun ⟨_, _, _, _, hnone⟩ => nomatch hx.symm.trans hnone).active
      have pstate := (kept.pstate noPower).resolve_right (ne_true_of_eq_false h.power.1)
      refine .waits h' (hw.of_kept kept.toKept active pstate) ?_ hx hseq'
      obtain rfl | rfl := hleft
      · exact hitems
      · exact (inner_issue .pinGet).mpr hitems
    | failed ha hc => exact .failed ha hc (kept.host.trans hw.host)

theorem Onward.host {s w v : State} {d : List Item} (h : Onward s d w v) : w.host = [] := by
  cases h with
  | waits _ hw => exact hw.host
  | failed _ _ hh => exact hh
  | completed _ hw => exact hw.host

/-- A step of both. -/
theorem onward_step {s w v : State} {d : List Item} (h : Onward s d w v) (ha : w.active = true) :
    ∃ w' v', step w = .next w' ∧ step v = .next v' ∧ Onward s d w' v' := by
  cases h with
  | failed hidle => cases hidle.symm.trans ha
  | completed => cases ha
  | @waits _ _ x left h hw hl hx hseq =>
    have ha' : v.active = true := by rw [h.same]; exact ha
    have hx' : v.pend = some x := by rw [h.same]; exact hx
    refine ⟨_, _, step_of_active ha, step_of_active ha', ?_⟩
    rw [resume_of_pend hx, resume_of_pend hx', ← run_issue_withPend x w.seq { w with seq := [] } none,
      ← run_issue_withPend x v.seq { v with seq := [] } none, hseq.1, hseq.2]
    exact onward_run (items := .issue x :: left) d
      ⟨congrArg (fun u : State => { u with seq := [], pend := none }) h.same, h.power, h.polls⟩
      ⟨hw.active, hw.ready, hw.rev, hw.params, hw.host, hw.noReset⟩ ((inner_issue x).mpr hl) rfl ⟨rfl, rfl⟩

theorem runSteps_idle {s : State} (ha : s.active = false) (hh : s.host = []) : ∀ n, runSteps n s = .next s
  | 0 => rfl
  | n + 1 => by rw [runSteps_succ (by rw [step_of_idle ha, hostTurn, hh]), runSteps_idle ha hh n]

theorem runSteps_add {s t : State} {n : Nat} (h : runSteps n s = .next t) (m : Nat) :
    runSteps (n + m) s = runSteps m t := by
  induction n generalizing s with
  | zero =>
    cases h
    rw [Nat.zero_add]
  | succ n ih =>
    rw [runSteps] at h
    rw [Nat.add_right_comm, runSteps]
    cases hs : step s with
    | next u =>
      rw [hs] at h
      exact ih h
    | _ => rw [hs] at h; cases h

/-- Where the host makes no move, an engine that has become idle is so after any further steps. -/
theorem runSteps_of_le {s t : State} {n k : Nat} (h : runSteps k s = .next t) (ha : t.active = false) (hh : t.host = [])
    (hk : k ≤ n) : runSteps n s = .next t := by
  obtain ⟨m, rfl⟩ := Nat.exists_eq_add_of_le hk
  rw [runSteps_add h, runSteps_idle ha hh]

/-- The steps of `w` up to its end are steps of both. -/
theorem onward_runSteps {s t : State} {d : List Item} {n : Nat} {w v : State} (h : Onward s d w v)
    (hrun : runSteps n w = .next t) : ∃ k v', k ≤ n ∧ runSteps k v = .next v' ∧ Onward s d t v' := by
  induction n generalizing w v with
  | zero =>
    cases hrun
    exact ⟨0, v, le_rfl, rfl, h⟩
  | succ n ih =>
    cases ha : w.active with
    | false =>
      rw [runSteps_idle ha h.host] at hrun
      cases hrun
      exact ⟨0, v, Nat.zero_le _, rfl, h⟩
    | true =>
      obtain ⟨w', v', hw, hv, h'⟩ := onward_step h ha
      rw [runSteps_succ hw] at hrun
      obtain ⟨k, v'', hk, hrun', h''⟩ := ih h' hrun
      exact ⟨k + 1, v'', Nat.succ_le_succ hk, (runSteps_succ hv k).trans hrun', h''⟩

/-! UPDATE_AND_DISPLAY_FRAME and the two in turn. -/

theorem isPowerRequest_eq_false {i : Instr} (hb : i.isBus = false) (hi : i ≠ .init) (hs : i ≠ .sleep) :
    isPowerRequest (some (requestOf i)) = false := by
  rw [Bool.eq_false_iff, Ne, isPowerRequest_requestOf hb]
  exact not_or.mpr ⟨hi, hs⟩

/-- An operation other than INIT and SLEEP completes at its end only, and writes no PSTATE. -/
theorem inner_of_sequence {i : Instr} (hb : i.isBus = false) (hr : isRegisterOp i = false) (hi : i ≠ .init)
    (hs : i ≠ .sleep) {s : State} {body : List Item} (h : sequenceOf i s = body ++ [.finish]) : Inner body := by
  obtain ⟨body', hbody, hf, -⟩ := sequence_body hb hr s
  obtain rfl := List.append_cancel_right (h.symm.trans hbody)
  exact ⟨hf, fun p hp => setPower_notMem_sequenceOf hb hi hs s p (h ▸ List.mem_append_left _ hp)⟩

theorem ne_ok_of_fullFrame_fails {s : State} {a : List Byte} {code : Status}
    (h : firstFailed [checkReady s, checkLength a planeSize] = some code) : code ≠ .ok := by
  rintro rfl
  unfold checkReady checkLength at h
  split at h
  · split at h <;> cases h
  · cases h

/-- UPDATE_AND_DISPLAY_FRAME begins as UPDATE_FRAME does. -/
theorem onward_updateFrame {s s₁ : State} {a : List Byte} (ha : s.active = false) (hh : s.host = []) (hn : s.noReset)
    (h : exec (.updateFrame a) s = .next s₁) :
    ∃ v, exec (.updateAndDisplayFrame a) s = .next v ∧ Onward s (displayBody s) s₁ v := by
  have alongside : Alongside (updateFrameBody a s) (s.accept (.updateFrame a)) (s.accept (.updateAndDisplayFrame a)) :=
    ⟨rfl, ⟨isPowerRequest_eq_false rfl nofun nofun, isPowerRequest_eq_false rfl nofun nofun⟩, .inl rfl⟩
  have starts := exec_operation (i := .updateAndDisplayFrame a) (s := s) rfl rfl nofun
  simp only [startOperation, ha, Bool.false_eq_true, if_false] at starts
  obtain ⟨code, hc, rfl⟩ | ⟨hc, rfl⟩ := exec_cases rfl rfl ha h
  · rw [show preCheck (.updateAndDisplayFrame a) s = some code from hc] at starts
    exact ⟨_, starts, alongside.raise_eq code 0 ▸ .failed rfl (ne_ok_of_fullFrame_fails hc) hh⟩
  · rw [show preCheck (.updateAndDisplayFrame a) s = none from hc] at starts
    refine ⟨_, starts, ?_⟩
    simp only [sequenceOf, List.append_assoc]
    exact onward_run (displayBody s) alongside
      ⟨rfl, ready_of_preCheck (i := .updateFrame a) (s := s) hc rfl, rfl, rfl, hh, hn⟩
      (inner_of_sequence (i := .updateFrame a) rfl rfl nofun nofun (s := s) rfl) rfl ⟨rfl, rfl⟩

/-- Where UPDATE_FRAME has completed, UPDATE_AND_DISPLAY_FRAME goes on as DISPLAY_FRAME begins. -/
theorem onward_displayFrame {s w v t₁ : State} (h : Alongside [] w v) (hw : Serving s w) (hp : w.pend = none)
    (hv : v.seq = []) (hx : exec .displayFrame w.complete = .next t₁) :
    Onward s [] t₁ (run (displayBody s ++ [.finish]) v).state := by
  have body : displayBody w.complete = displayBody s := by
    simp only [displayBody, State.complete, State.endOperation, hw.rev, hw.params]
  have going : w = { w with active := true, pend := none } := by rw [← hw.active, ← hp]
  have alongside : Alongside (displayBody s) (w.complete.accept .displayFrame) v :=
    ⟨h.same.trans (congrArg
        (fun u : State => { u with req := v.req, code := v.code, polls := v.polls, seq := v.seq }) going),
      ⟨isPowerRequest_eq_false rfl nofun nofun, h.power.2⟩, .inr (polled_displayBody s)⟩
  obtain ⟨code, hc, -⟩ | ⟨-, rfl⟩ := exec_cases rfl rfl rfl hx
  · cases (checkReady_of_ready (s := w.complete) hw.ready).symm.trans hc
  · rw [sequenceOf, body]
    exact onward_run [] alongside ⟨rfl, hw.ready, hw.rev, hw.params, hw.host, hw.noReset⟩
      (inner_of_sequence (i := .displayFrame) rfl rfl nofun nofun (s := s) rfl) rfl ⟨rfl, hv⟩

/-- With nothing to go on with, both end in the same state. -/
theorem Onward.eq_of_idle {s t v : State} (h : Onward s [] t v) (ht : t.active = false) : v = t := by
  cases h with
  | waits _ hw => cases ht.symm.trans hw.active
  | failed => rfl
  | completed h => exact h.complete_eq

/-- Settles O26: the two run side by side up to UPDATE_FRAME's end, and if that is its completion, from DISPLAY_FRAME's start
on. -/
theorem updateAndDisplayIsTheTwoInTurn : Obligations.UpdateAndDisplayIsTheTwoInTurn := by
  unfold Obligations.UpdateAndDisplayIsTheTwoInTurn
  intro s s₁ t a n ha hh hn hx hrun ht
  obtain ⟨v, hv, started⟩ := onward_updateFrame ha hh hn hx
  obtain ⟨k, v', hk, hrun', updated⟩ := onward_runSteps started hrun
  refine ⟨v, hv, ?_⟩
  cases updated with
  | waits _ hw => cases ht.symm.trans hw.active
  | failed _ hc hh' => exact ⟨fun _ => runSteps_of_le hrun' ht hh' hk, fun _ _ _ hok => absurd hok hc⟩
  | completed h hw hp hseq =>
    refine ⟨fun hc => absurd rfl hc, fun t₁ u m _ hx₂ hrun₂ hu => ?_⟩
    obtain ⟨j, u', hj, hrun₂', displayed⟩ := onward_runSteps (onward_displayFrame h hw hp hseq.2 hx₂) hrun₂
    obtain rfl := displayed.eq_of_idle hu
    exact runSteps_of_le ((runSteps_add hrun' j).trans hrun₂') hu displayed.host (Nat.add_le_add hk hj)

end Sys2Proof.Machine
end

section
/-! O29 (spec/45_register_ops.md R240, R242, R244, R246). Where BG or RESULT is written between acceptance and completion, only
that register differs from the ended state, so each operation's whole next state is its write. -/

namespace Sys2Proof.Machine

/-- At the idle engine a register operation runs to its completion. -/
theorem registerOperation_of_idle {s : State} (ha : s.active = false) (i : Instr) (write : State → State) :
    registerOperation i write s = .next (write (s.accept i)).complete := by
  simp [registerOperation, ha]

theorem complete_setBg_accept (s : State) (i : Instr) (c : Byte) :
    (State.setBg c (s.accept i)).complete = { s.ended .ok with bg := c } := rfl

theorem complete_setResult_accept (s : State) (i : Instr) (v : Half) :
    (State.setResult v (s.accept i)).complete = { s.ended .ok with result := v } := rfl

/-- Settles O29: the idle engine accepts each operation, and what it writes is the operand, BG zero-extended, or the panel's
size. -/
theorem registerOperationsWriteOneRegister : Obligations.RegisterOperationsWriteOneRegister := by
  unfold Obligations.RegisterOperationsWriteOneRegister
  intro s ha
  refine ⟨fun c => ?setBackground, ?background, ?width, ?height⟩
  case setBackground =>
    rw [exec, execSetBackgroundColor, registerOperation_of_idle ha, complete_setBg_accept]
  case background =>
    rw [exec, execGetBackgroundColor, registerOperation_of_idle ha, complete_setResult_accept, BitVec.ofNat_toNat]
  case width =>
    rw [exec, execGetWidth, registerOperation_of_idle ha, complete_setResult_accept, panelWidth]
  case height =>
    rw [exec, execGetHeight, registerOperation_of_idle ha, complete_setResult_accept, panelHeight]

end Sys2Proof.Machine
end

section
/-! O9, O10, O5, O34 to O36 and O47 (spec/60_exceptions.md R252, R255 to R257, R266, R270 to R273, 30_encoding.md R92, R96): what
the port and the pre-checks decide before any transaction is issued, and that every step gives a next state. -/

namespace Sys2Proof.Machine

/-! What exec answers. -/

/-- A host operation runs its pre-checks and then its sequence, unless it is a SET_LUT about to send an empty LUT. -/
theorem exec_startOperation {i : Instr} (hb : i.isBus = false) (hr : isRegisterOp i = false) {s : State}
    (hl : ∀ m, i = .setLut m → lutPayload s.params m ≠ [] ∨ s.active = true ∨ s.pstate ≠ .ready) :
    exec i s = startOperation i (preCheck i s) (sequenceOf i s) s := by
  cases i with
  | setLut m =>
    have sends : ¬(lutPayload s.params m = [] ∧ s.active = false ∧ s.pstate = .ready) := by
      rintro ⟨hnil, hidle, hready⟩
      simpa [hnil, hidle, hready] using hl m rfl
    simp only [exec, execSetLut, preCheck, sequenceOf, if_neg sends]
    split <;> rfl
  | _ => exact exec_operation hb hr nofun

theorem startOperation_of_active {s : State} (ha : s.active = true) (i : Instr) (failed : Option Status)
    (items : List Item) : startOperation i failed items s = .next s := if_pos ha

theorem startOperation_failed {s : State} (ha : s.active = false) (i : Instr) (code : Status) (items : List Item) :
    startOperation i (some code) items s = .next ((s.accept i).raise code 0) := if_neg (by simp [ha])

theorem startOperation_passed {s : State} (ha : s.active = false) (i : Instr) (items : List Item) :
    startOperation i none items s = .next (run items (s.accept i)).state := if_neg (by simp [ha])

/-- While ACTIVE = 1 a host operation changes nothing (spec/60_exceptions.md R266). -/
theorem exec_eq_self_of_active {i : Instr} (hb : i.isBus = false) {s : State} (ha : s.active = true) :
    exec i s = .next s := by
  cases hr : isRegisterOp i with
  | true =>
    obtain ⟨write, hw, -⟩ := exec_register hr s
    rw [hw, registerOperation, if_pos ha]
  | false => rw [exec_startOperation hb hr fun _ _ => .inr (.inl ha), startOperation_of_active ha]

/-- A host operation gives a next state, if no LUT is empty. -/
theorem exec_gives_next {i : Instr} (hb : i.isBus = false) {s : State} (hwf : s.params.wf = true) :
    ∃ t, exec i s = .next t := by
  cases ha : s.active with
  | true => exact ⟨s, exec_eq_self_of_active hb ha⟩
  | false =>
    cases hr : isRegisterOp i with
    | true =>
      obtain ⟨write, hw, -⟩ := exec_register hr s
      exact ⟨_, hw.trans (registerOperation_of_idle ha i write)⟩
    | false =>
      rw [exec_operation hb hr fun m _ => lutPayload_ne_nil hwf m]
      cases preCheck i s with
      | some code => exact ⟨_, startOperation_failed ha i code _⟩
      | none => exact ⟨_, startOperation_passed ha i _⟩

/-! The host's requests. -/

/-- Settles O9: no operation is accepted, and going on with the one in progress leaves the host's moves. -/
theorem noRequestWhileActive : Obligations.NoRequestWhileActive := by
  unfold Obligations.NoRequestWhileActive
  intro s ha
  exact ⟨fun i hb => exec_eq_self_of_active hb ha, resume s, step_of_active ha, (sameInstance_resume s).host⟩

/-- A request that decodes whole runs its operation at the idle engine. -/
theorem step_of_request {s : State} {bytes : List Byte} {rest : List HostMove} {i : Instr} (ha : s.active = false)
    (hh : s.host = .request bytes :: rest) (hd : decodeRequest bytes = .ok (i, [])) :
    step s = execRequest i bytes { s with host := rest } := by
  simp only [step_of_idle ha, hostTurn, hh, presentRequest, hd]

/-- Running an encoded request is running its operation: the descriptor holds what the operation latched. -/
theorem execRequest_encode {i : Instr} (hb : i.isBus = false) {s : State} (ha : s.active = false) :
    execRequest i (encode i) s = exec i s := by
  unfold execRequest
  split
  case h_1 t hx =>
    have latched : t.req = none ∨ t.req = some (requestOf i) := (exec_req hb ha hx).imp And.right And.right
    rw [latchDescriptor_encode hb latched, hx]
  case h_2 hx => exact hx.symm
  case h_3 hx => exact hx.symm

/-- Settles O5: the encoding decodes whole (O1), and the port latches nothing that the operation has not. -/
theorem stepRunsTheRequest : Obligations.StepRunsTheRequest := by
  unfold Obligations.StepRunsTheRequest
  intro i rest s hb hw ha hh
  have decoded : decodeRequest (encode i) = .ok (i, []) := by
    simpa using requestRoundTrip i [] hb hw
  rw [step_of_request ha hh decoded, execRequest_encode hb (s := { s with host := rest }) ha]

/-- The OP values that R93 does not assign (spec/30_encoding.md R96). -/
def isUnassigned (op : Byte) : Prop :=
  op.toNat = 0x00 ∨ (0x05 ≤ op.toNat ∧ op.toNat ≤ 0x0F) ∨ (0x15 ≤ op.toNat ∧ op.toNat ≤ 0x17)
    ∨ (0x1B ≤ op.toNat ∧ op.toNat ≤ 0x1F) ∨ 0x24 ≤ op.toNat

theorem decodeDescriptor_unassigned {d : Descriptor} (h : isUnassigned d.op) (stream : List Byte) :
    decodeDescriptor d stream = .error (.illegalOp d.op) := by
  unfold isUnassigned at h
  unfold decodeDescriptor
  split
  case h_17 => rfl
  all_goals omega

/-- Sixteen bytes are a descriptor, its OP the first of them (R97). -/
theorem readDescriptor_of_length {op : Byte} {others : List Byte} (h : others.length = 15) :
    ∃ d, readDescriptor (op :: others) = some (d, []) ∧ d.op = op := by
  match others, h with
  | [_, _, _, _, _, _, _, _, _, _, _, _, _, _, _], _ => exact ⟨_, rfl, rfl⟩

theorem decodeRequest_unassigned {op : Byte} {others : List Byte} (hl : others.length = 15) (h : isUnassigned op) :
    decodeRequest (op :: others) = .error (.illegalOp op) := by
  obtain ⟨d, hread, rfl⟩ := readDescriptor_of_length (op := op) hl
  rw [decodeRequest, hread]
  exact decodeDescriptor_unassigned h []

/-- Sixteen bytes with an unassigned OP raise ILLEGAL_OPERATION at the idle engine (R96). -/
theorem step_of_illegalOp {s : State} {bytes : List Byte} {rest : List HostMove} {op : Byte} (ha : s.active = false)
    (hh : s.host = .request bytes :: rest) (hd : decodeRequest bytes = .error (.illegalOp op)) (hl : bytes.length = 16) :
    step s = .next { s with host := rest }.illegalOperation := by
  simp only [step_of_idle ha, hostTurn, hh, presentRequest, hd, hl, if_true]

/-- An exception that neither the transport nor the panel causes changes STATUS alone, and nothing is held of the operation. -/
theorem raise_eq_ended (s : State) {code : Status} (hbus : code ≠ .busError) (hpanel : code ≠ .panelTimeout) (info : Nat) :
    s.raise code info = s.ended code := by
  have power : powerAfter s.req code s.pstate = s.pstate := by simp [powerAfter, failsPower, hbus, hpanel]
  have err : errInfoAfter s.params code info s.errInfo = s.errInfo := if_neg hbus
  rw [State.raise, power, err]
  rfl

/-- Settles O10: the request decodes to no operation, and the exception changes STATUS alone. -/
theorem unassignedOpIsIllegal : Obligations.UnassignedOpIsIllegal := by
  unfold Obligations.UnassignedOpIsIllegal
  intro s op others rest ha hl hop hh
  rw [step_of_illegalOp ha hh (decodeRequest_unassigned hl hop) (congrArg Nat.succ hl), State.illegalOperation,
    raise_eq_ended _ (code := .illegalOperation) nofun nofun]

/-- Settles O47: the engine goes on, waits, is reset, or takes a complete request, which exec answers with a next state. -/
theorem everyStepGivesANextState : Obligations.EveryStepGivesANextState := by
  unfold Obligations.EveryStepGivesANextState
  intro s hwf hcomplete
  cases ha : s.active with
  | true => exact ⟨_, step_of_active ha⟩
  | false =>
    cases hh : s.host with
    | nil => exact ⟨s, idleEngineWaits s ha hh⟩
    | cons move rest =>
      cases move with
      | reset => exact ⟨{ s with host := rest }.engineReset, by rw [step_of_idle ha, hostTurn, hh]⟩
      | request bytes =>
        obtain ⟨i, hd⟩ | ⟨op, hd, hl⟩ := hcomplete bytes rest hh
        · obtain ⟨t, hx⟩ := exec_gives_next (decodeRequest_isBus hd) (s := { s with host := rest }) hwf
          exact ⟨t.latchDescriptor bytes, by rw [step_of_request ha hh hd, execRequest, hx]⟩
        · exact ⟨_, step_of_illegalOp ha hh hd hl⟩

/-! Pre-checks that fail. -/

/-- Only host operations with a sequence have pre-checks. -/
theorem host_of_preCheck_failed {i : Instr} {s : State} {code : Status} (hc : preCheck i s = some code) :
    i.isBus = false ∧ isRegisterOp i = false := by
  cases i with
  | sleep | setLut _ | updateFrame _ | updatePartialFrame _ _ _ _ _ | updateColorFrame _ _ | updateAchromaticFrame _
  | updateChromaticFrame _ | displayFrame | updateAndDisplayFrame _ | clearFrame => exact ⟨rfl, rfl⟩
  | _ => cases hc

/-- An operation that fails a pre-check changes STATUS alone and issues nothing (R252, R257). -/
theorem exec_of_preCheck_failed {i : Instr} {s : State} {code : Status} (ha : s.active = false)
    (hc : preCheck i s = some code) (hbus : code ≠ .busError) (hpanel : code ≠ .panelTimeout) :
    exec i s = .next (s.ended code) := by
  obtain ⟨hb, hr⟩ := host_of_preCheck_failed hc
  have notReady : ∀ m, i = .setLut m → s.pstate ≠ .ready := by
    rintro m rfl hready
    simp [preCheck, checkReady, hready] at hc
  rw [exec_startOperation hb hr fun m hm => .inr (.inr (notReady m hm)), hc, startOperation_failed ha,
    raise_eq_ended (s.accept i) hbus hpanel]
  rfl

theorem checkReady_of_not_ready {s : State} (h : s.pstate ≠ .ready) : checkReady s = some .invalidState := if_neg h

theorem checkPartial_legacy {s : State} (h : s.rev = .legacy) : checkPartial s = some .unsupported := by
  simp [checkPartial, h, profileOf]

theorem checkPartial_v4 {s : State} (h : s.rev = .v4) : checkPartial s = none := by
  simp [checkPartial, h, profileOf]

theorem checkLength_of_ne {buf : List Byte} {n : Nat} (h : buf.length ≠ n) :
    checkLength buf n = some .invalidBufferLength := if_neg h

/-- The first pre-check of an operation that needs Ready, after R270's, is PSTATE (R256). -/
theorem preCheck_of_not_ready {i : Instr} {s : State} (hn : needsReady s.rev i = true) (hp : s.pstate ≠ .ready)
    (hv : ∀ x y w h a, i = .updatePartialFrame x y w h a → s.rev = .v4) : preCheck i s = some .invalidState := by
  have notReady := checkReady_of_not_ready hp
  cases i with
  | sleep | displayFrame | clearFrame => exact notReady
  | setLut m => exact (if_pos hn).trans notReady
  | updateFrame _ | updateColorFrame _ _ | updateAchromaticFrame _ | updateChromaticFrame _ | updateAndDisplayFrame _ =>
    simp only [preCheck, notReady, firstFailed]
  | updatePartialFrame x y w h a => simp only [preCheck, checkPartial_v4 (hv x y w h a rfl), notReady, firstFailed]
  | _ => cases hn

/-- Settles O34: PSTATE is the first pre-check that such an operation can fail. -/
theorem notReadyIsInvalidState : Obligations.NotReadyIsInvalidState := by
  unfold Obligations.NotReadyIsInvalidState
  intro i s ha hn hp hv
  exact exec_of_preCheck_failed ha (preCheck_of_not_ready hn hp hv) nofun nofun

/-- Settles O35: each clause has the checks before its own passed, and its own failed. -/
theorem partialFrameChecksInOrder : Obligations.PartialFrameChecksInOrder := by
  unfold Obligations.PartialFrameChecksInOrder
  intro s x y w h a ha valid
  refine ⟨fun hv => ?_, fun hv hp => ?_, fun hv hp hg => ?_, fun hv hp hg hl => ?_⟩ <;>
    refine exec_of_preCheck_failed ha ?_ nofun nofun
  · simp only [preCheck, checkPartial_legacy hv, firstFailed]
  · simp only [preCheck, checkPartial_v4 hv, checkReady_of_not_ready hp, firstFailed]
  · have geometry : checkGeometry x y w h = some .invalidGeometry := if_neg hg
    simp only [preCheck, checkPartial_v4 hv, checkReady_of_ready hp, geometry, firstFailed]
  · have geometry : checkGeometry x y w h = none := if_pos hg
    simp only [preCheck, checkPartial_v4 hv, checkReady_of_ready hp, geometry, checkLength_of_ne hl, firstFailed]

/-- The pre-checks of an operation with one full-panel buffer of another length (R273). -/
theorem fullFrame_fails {s : State} {a : List Byte} (hready : s.pstate = .ready) (hlen : a.length ≠ planeSize) :
    firstFailed [checkReady s, checkLength a planeSize] = some .invalidBufferLength := by
  rw [checkReady_of_ready hready, checkLength_of_ne hlen]
  rfl

/-- UPDATE_COLOR_FRAME's pre-checks, either buffer being of another length (R214, R256, R273). -/
theorem colorFrame_fails {s : State} {a b : List Byte} (hready : s.pstate = .ready)
    (hlen : a.length ≠ planeSize ∨ b.length ≠ planeSize) :
    preCheck (.updateColorFrame a b) s = some .invalidBufferLength := by
  rw [preCheck, checkReady_of_ready hready]
  by_cases hA : a.length = planeSize
  · rw [checkLength_of_length hA, checkLength_of_ne (hlen.resolve_left (not_not_intro hA))]
    rfl
  · rw [checkLength_of_ne hA]
    rfl

/-- Settles O36: PSTATE passes, and the length of a buffer does not. -/
theorem wrongLengthIsInvalidBufferLength : Obligations.WrongLengthIsInvalidBufferLength := by
  unfold Obligations.WrongLengthIsInvalidBufferLength
  intro s a b ha hready
  refine ⟨fun hlen => ?_, fun hlen => exec_of_preCheck_failed ha (colorFrame_fails hready hlen) nofun nofun⟩
  have fails := fullFrame_fails (a := a) hready hlen
  exact ⟨exec_of_preCheck_failed ha fails nofun nofun, exec_of_preCheck_failed ha fails nofun nofun,
    exec_of_preCheck_failed ha fails nofun nofun, exec_of_preCheck_failed ha fails nofun nofun⟩

end Sys2Proof.Machine
end

section
/-! O20 (spec/60_exceptions.md R258, 40_framer.md R130). With no deadline, and a transport whose loop is one busy sample, each
step ends in the next poll interval with the same moves to come. -/

namespace Sys2Proof.Machine

/-- A transport whose loop is one move makes it for ever. -/
theorem Env.next_of_loop {e : Env} {m : Move} (hs : e.script = []) (hl : e.loop = [m]) : e.next = some (m, e) := by
  cases e
  simp_all [Env.next]

/-- With BUSY stuck and no deadline, WAIT_IDLE is in its poll interval after any number of steps. -/
theorem runSteps_stuckBusy {s : State} {host : List HostMove} (ha : s.active = false)
    (hh : s.host = .request (encode .waitIdle) :: host) (hlimit : s.params.busyPollLimit = none)
    (hnext : s.env.next = some (.ok .high, s.env)) (n : Nat) :
    runSteps (n + 1) s = .next (s.inInterval host n s.env) := by
  have below : ∀ j, ¬∃ m, s.params.busyPollLimit = some m ∧ m ≤ j + 1 := by simp [hlimit]
  have noReset : ∀ e, s.env.next ≠ some (.reset, e) := by simp [hnext]
  induction n with
  | zero => rw [runSteps_succ (step_waitIdle ha hh), afterSample_of_busy hnext (below 0), runSteps]
  | succ n ih =>
    rw [runSteps_add ih 1, runSteps_succ (step_inInterval noReset), afterSample_of_busy hnext (below (n + 1)), runSteps]

/-- Settles O20: the poll interval that each step ends in is an operation in progress. -/
theorem stuckBusyHangsForEver : Obligations.StuckBusyHangsForEver := by
  unfold Obligations.StuckBusyHangsForEver
  intro s host ha hh hlimit hs hl n
  exact ⟨s.inInterval host n s.env, runSteps_stuckBusy ha hh hlimit (Env.next_of_loop hs hl) n, rfl, rfl, rfl, rfl⟩

end Sys2Proof.Machine
end

section
/-! O37 (spec/60_exceptions.md R252, R253, R259, 40_framer.md R124, R131, R133). An error falls on the first transaction whose
answer the Ok moves before it do not reach; up to it the sequence is replayed, and it changes what an exception changes. -/

namespace Sys2Proof.Machine

/-! The transaction that fails. -/

/-- The transaction of a sequence that takes the `n`-th of the transport's moves, counted from 0. -/
theorem exists_asked_of_lt {items : List Item} {n : Nat} (h : n < askedCount items) :
    ∃ done txn rest, items = done ++ .issue txn :: rest ∧ txn.isAsked = true ∧ askedCount done = n := by
  induction items generalizing n with
  | nil => cases h
  | cons item items ih =>
    have count (a : List Item) : askedCount (item :: a) = askedCount [item] + askedCount a := askedCount_append [item] a
    rcases Nat.lt_or_ge n (askedCount [item]) with here | later
    · cases item with
      | issue t =>
        cases ht : t.isAsked with
        | true =>
          have one : askedCount [.issue t] = 1 := by simp [askedCount, ht]
          exact ⟨[], t, items, rfl, ht, (Nat.lt_one_iff.mp (one ▸ here)).symm⟩
        | false => simp [askedCount, ht] at here
      | _ => cases here
    · rw [count] at h
      obtain ⟨done, txn, rest, rfl, ht, hdone⟩ := ih (n := n - askedCount [item]) (by omega)
      exact ⟨item :: done, txn, rest, rfl, ht, by rw [count, hdone]; omega⟩

/-- A stretch that may stand before a transaction of an operation: it neither completes it nor writes PSTATE or REFRESH. -/
def BeforeIssue (items : List Item) : Prop := Inner items ∧ ∀ m, .setRefresh m ∉ items

theorem beforeIssue_of_sequence {i : Instr} (hb : i.isBus = false) (hr : isRegisterOp i = false) {s : State}
    {pre post : List Item} {t : Transaction} (h : sequenceOf i s = pre ++ .issue t :: post) : BeforeIssue pre := by
  obtain ⟨noPower, noRefresh⟩ := (modesLast_sequenceOf hb hr s).before_issue h
  refine ⟨⟨?_, noPower⟩, noRefresh⟩
  obtain ⟨body, hbody, hf, -⟩ := sequence_body hb hr s
  obtain ⟨left, rfl, -⟩ := sequence_rest hb hr h
  rw [h, ← List.cons_append, ← List.append_assoc] at hbody
  obtain rfl := List.append_cancel_right hbody
  exact fun hm => hf (List.mem_append_left _ hm)

theorem BeforeIssue.right {a b : List Item} (h : BeforeIssue (a ++ b)) : BeforeIssue b := by
  obtain ⟨⟨noFinish, noPower⟩, noRefresh⟩ := h
  exact ⟨⟨fun hm => noFinish (List.mem_append_right a hm), fun p hm => noPower p (List.mem_append_right a hm)⟩,
    fun m hm => noRefresh m (List.mem_append_right a hm)⟩

theorem BeforeIssue.issue_cons {a : List Item} (h : BeforeIssue a) (t : Transaction) : BeforeIssue (.issue t :: a) :=
  ⟨(inner_issue t).mpr h.1, by simp [h.2]⟩

/-- What an operation that waits does from its pending transaction up to one that is to be answered. -/
theorem beforeIssue_of_waiting {i : Instr} {s : State} {x txn : Transaction} {done rest : List Item} (h : s.Inv)
    (ha : s.active = true) (hi : s.inOperation i) (hp : s.pend = some x)
    (hsplit : .issue x :: s.seq = done ++ .issue txn :: rest) (ht : txn.isAsked = true) : BeforeIssue done := by
  obtain ⟨-, htrack, -⟩ := h
  obtain ⟨j, past, hj, hr, -, hplace⟩ := htrack ha
  obtain rfl := hi.unique hj
  obtain ⟨z, hz, -, hs⟩ | ⟨n, hz, hs, -⟩ := hplace <;> obtain rfl := Option.some.inj (hp.symm.trans hz)
  · rw [hsplit, ← List.append_assoc] at hs
    exact (beforeIssue_of_sequence hi.isBus hr hs).right
  · cases done with
    | nil =>
      cases hsplit
      cases ht
    | cons item done =>
      rw [List.cons_append] at hsplit
      obtain ⟨rfl, hseq⟩ := List.cons.inj hsplit
      rw [hseq, ← List.append_assoc] at hs
      exact (beforeIssue_of_sequence hi.isBus hr hs).right.issue_cons _

/-! The state after it. -/

/-- Operation `i` has failed at `txn` with `Err(e)`, `done` having gone through before it; `more` of the transport's script is
left. -/
def State.failedAt (s : State) (i : Instr) (done : List Item) (txn : Transaction) (e : Nat) (more : List Move) : State :=
  { (s.after ((transactionsOf done).map idleEvent ++ [{ txn := txn, answer := .err e }]) (pinsAfter done s.pins)
      more).ended .busError with
    shadow := shadowAfter done s.shadow
    duc2Acc := duc2After done s.duc2Acc
    errInfo := e % 2 ^ s.params.errInfoWidth
    pstate := if i = .init ∨ i = .sleep then .uninitialized else s.pstate }

/-- An operation in progress that hears Ok and idle up to a transaction, and then an error. -/
theorem run_until_err {i : Instr} {s : State} {done : List Item} {txn : Transaction} {e : Nat} {more : List Move}
    (hi : s.inOperation i) (hp : s.pend = none) (hd : BeforeIssue done) (ht : txn.isAsked = true)
    (h : s.hearsIdle (askedCount done) (.err e :: more)) (rest : List Item) :
    (run (done ++ .issue txn :: rest) s).state = s.failedAt i done txn e more := by
  obtain ⟨⟨noFinish, noPower⟩, noRefresh⟩ := hd
  have power : powerAfter s.req .busError s.pstate = if i = .init ∨ i = .sleep then .uninitialized else s.pstate := by
    rw [powerAfter_of_failure (.inl rfl)]
    exact if_congr hi.power_iff rfl rfl
  rw [run_idle_until noFinish _ h nofun hp, run_issue_err (s := replay done s (.err e :: more)) ht rfl rest]
  simp only [replay, pstateAfter_of_notMem noPower, refreshAfter_of_notMem noRefresh]
  simp only [Turn.state, State.raise, State.failedAt, State.after, power, List.append_assoc]
  rfl

/-- Settles O37: the error falls on a transaction of the sequence, or of what an operation that waits has still to do, and the
sequence is replayed up to it. -/
theorem busErrorIsPrecise : Obligations.BusErrorIsPrecise := by
  unfold Obligations.BusErrorIsPrecise
  intro i s ms more e hs hok failed
  refine ⟨fun hb hr ha hwf hc hlt => ?_, fun x hinv ha hi hp hlt => ?_⟩
  · obtain ⟨done, txn, rest, hseq, ht, hcount⟩ := exists_asked_of_lt hlt
    refine ⟨done, txn, rest, hseq, ht, hcount, ?_⟩
    have heard : (s.accept i).hearsIdle (askedCount done) (.err e :: more) := ⟨ms, hs, hcount.symm, hok⟩
    rw [exec_operation hb hr fun m _ => lutPayload_ne_nil hwf m, hc, hseq, startOperation_passed ha]
    exact congrArg Host.Outcome.next (run_until_err (s := s.accept i) ⟨_, rfl, requestOf_operation hb⟩ rfl
      (beforeIssue_of_sequence hb hr hseq) ht heard rest)
  · obtain ⟨done, txn, rest, hseq, ht, hcount⟩ := exists_asked_of_lt (items := .issue x :: s.seq) hlt
    refine ⟨done, txn, rest, hseq, ht, hcount, ?_⟩
    have heard : ({ s with seq := [], pend := none } : State).hearsIdle (askedCount done) (.err e :: more) :=
      ⟨ms, hs, hcount.symm, hok⟩
    rw [step_of_active ha, resume_of_pend hp, ← run_issue_withPend x s.seq { s with seq := [] } none, hseq]
    exact congrArg Host.Outcome.next (run_until_err (s := { s with seq := [], pend := none }) hi rfl
      (beforeIssue_of_waiting hinv ha hi hp hseq ht) ht heard rest)

end Sys2Proof.Machine
end

section
/-! O11, O13 and O45 (spec/70_reset_and_hazards.md R280 to R284, 10_state.md R37). Engine reset leaves the reset state of the
same strap and parameters, from the idle engine by the host's move, from an operation by what the outside does to the pending
transaction. -/

namespace Sys2Proof.Machine

/-- The window after reset: REV, BG and PINS are the registers whose reset value is not 0 (R37). -/
theorem windowRead_resetOf (rev : Rev) (p : Params) (n : Nat) : windowRead (State.resetOf rev p) n =
    if n = 0x0 then (if rev = .v4 then 1 else 0) else if n = 0x3 then p.bgReset.toNat else if n = 0xE then 0b101 else 0 :=
  match n with
  | 0x0 => by cases rev <;> rfl
  | 0x1 | 0x2 | 0x3 | 0x4 | 0x5 | 0x6 | 0x7 | 0x8 | 0x9 | 0xA | 0xB | 0xC | 0xD | 0xE => rfl
  | k + 0xF => by
    rw [windowRead_reserved _ (Nat.le_add_left 0xF k), if_neg (by omega), if_neg (by omega), if_neg (by omega)]

/-- Settles O11: the window number by number, and the hidden state by its reset values. -/
theorem resetValuesOfTheWindow : Obligations.ResetValuesOfTheWindow :=
  fun rev p => ⟨windowRead_resetOf rev p, rfl, rfl, rfl, rfl⟩

/-- Settles O13: the idle engine takes the host's reset, and an engine in an operation has its pending transaction cut. -/
theorem engineResetResetsEveryRegister : Obligations.EngineResetResetsEveryRegister := by
  unfold Obligations.EngineResetResetsEveryRegister
  refine fun s => ⟨fun rest ha hh => ?_, fun t env ha hp hreset => ?_⟩
  · rw [step_of_idle ha, hostTurn, hh]
    rfl
  · rw [step_of_active ha, resume_of_pend hp, run_cons, perform, settle_reset (s := { s with seq := [] }) _ _ hreset]
    rfl

theorem inv_resetOf (rev : Rev) (p : Params) : (State.resetOf rev p).Inv := inv_engineReset (State.resetOf rev p)

/-- The parameters of `State.reset` are within R11's bounds whatever its open values are: the deadline and the length of the LUT
are each one more than an open value. -/
theorem Params.wf_atReset : Params.atReset.wf = true := by
  simp [Params.wf, Params.atReset]

/-- Settles O45: the reset state is one that an engine reset leaves. -/
theorem resetMeetsTheInvariant : Obligations.ResetMeetsTheInvariant :=
  ⟨inv_resetOf, inv_resetOf _ _, .v4, Params.atReset, rfl, Params.wf_atReset⟩

end Sys2Proof.Machine
end

section
/-! O39 (spec/70_reset_and_hazards.md R298). A sequence has one event for each of its transactions, so the table's counts are the
lengths of the events that the spec prints, with the buffers as long as the pre-checks ask. -/

namespace Sys2Proof.Machine

/-! How many events a piece of a trace has. -/

theorem length_transactionsOf (items : List Item) : (transactionsOf items).length = (idleEvents items).length := by
  simp [idleEvents]

@[simp] theorem length_evPin (p : Pin) (l : Level) : (evPin p l).length = 1 := rfl
@[simp] theorem length_evDelay (us : Nat) : (evDelay us).length = 1 := rfl
@[simp] theorem length_evWaitOk : evWaitOk.length = 1 := rfl
@[simp] theorem length_evCmd (op : Byte) : (evCmd op).length = 4 := rfl
@[simp] theorem length_evDat (bytes : List Byte) : (evDat bytes).length = bytes.length + 3 := by
  simp [evDat, evBytes]
  omega
@[simp] theorem length_evArea (r : Rect) : (evArea r).length = 20 := rfl
@[simp] theorem length_evCounters (x y : Nat) : (evCounters x y).length = 18 := rfl
@[simp] theorem length_evRamWrite (op : Byte) (r : Rect) (bytes : List Byte) :
    (evRamWrite op r bytes).length = 45 + bytes.length := by
  simp [evRamWrite]
  omega

@[simp] theorem idleEvents_setRefresh (m : RefreshMode) (a : List Item) : idleEvents (.setRefresh m :: a) = idleEvents a :=
  rfl

/-! The bodies. -/

theorem length_of_checkPlane {buf : List Byte} (h : checkLength buf planeSize = none) : buf.length = 4000 :=
  checkLength_eq_none.mp h

theorem length_of_fullFrameChecks {s : State} {a : List Byte}
    (h : firstFailed [checkReady s, checkLength a planeSize] = none) : a.length = 4000 :=
  length_of_checkPlane (firstFailed_eq_none.mp h _ (by simp))

theorem length_idleEvents_updateFrameBody (s : State) {a : List Byte} (h : a.length = 4000) :
    (idleEvents (updateFrameBody a s)).length = if s.refresh = .fullRefresh then 8090 else 4045 := by
  rw [idleEvents_updateFrameBody, List.length_append, apply_ite List.length, length_evRamWrite, length_evRamWrite, length_fill, h]
  split <;> rfl

theorem length_idleEvents_updatePartialBody (s : State) (x y w h : Half) {a : List Byte} {n : Nat} (ha : a.length = n) :
    (idleEvents (updatePartialBody x y w h a s)).length = if s.refresh = .fullRefresh then 90 + 2 * n else 45 + n := by
  simp only [updatePartialBody, idleEvents_append, idleEvents_ramWriteA]
  split
  · simp [length_fill, ha]
    omega
  · simp [ha]

theorem length_idleEvents_displayBody (s : State) :
    (idleEvents (displayBody s)).length = if s.rev = .v4 then 13 else 5 := by
  rw [idleEvents_displayBody]
  split <;> rfl

theorem length_evClearPass (bg : Byte) : (evClearPass bg).length = 8090 := by
  rw [evClearPass, List.length_append, length_evRamWrite, length_evRamWrite, List.length_replicate]

theorem length_idleEvents_clearBody (s : State) :
    (idleEvents (clearBody s)).length = if s.refresh = .fullRefresh then 16180 else 8090 := by
  rw [idleEvents_clearBody, List.length_append, apply_ite List.length, length_evClearPass]
  split <;> rfl

theorem length_idleEvents_sleep (s : State) :
    (idleEvents (sequenceOf .sleep s)).length = if s.rev = .v4 then 21 else 9 := by
  cases hv : s.rev with
  | legacy => simp [sequenceOf_sleep_legacy hv]
  | v4 => simp [sequenceOf_sleep_v4 hv]

theorem length_idleEvents_setLut (s : State) (hwf : s.params.wf = true) (m : RefreshMode) :
    (idleEvents (sequenceOf (.setLut m) s)).length = if s.rev = .v4 then 7 + s.params.lutLen else 0 := by
  cases hv : s.rev with
  | legacy => simp [sequenceOf, profileOf, hv]
  | v4 =>
    simp [sequenceOf, profileOf, hv, setLutBody, writeLut, length_lutPayload hwf]
    omega

/-- Settles O39: every operation's body by the lengths of its events; a register operation has none. -/
theorem transactionCounts : Obligations.TransactionCounts := by
  unfold Obligations.TransactionCounts
  intro s i hc hwf
  simp only [length_transactionsOf]
  refine ⟨?init, ?sleep, ?setLut, ?waitIdle, ?updateFrame, ?partialFrame, ?colorFrame, ?oneBank, ?display,
    ?updateAndDisplay, ?clear, ?registers⟩
  case init =>
    rintro rfl
    simp [sequenceOf_init]
  case sleep =>
    rintro rfl
    exact length_idleEvents_sleep s
  case setLut =>
    rintro m rfl
    exact length_idleEvents_setLut s hwf m
  case waitIdle =>
    rintro rfl
    rfl
  case updateFrame =>
    rintro a rfl
    simpa [sequenceOf] using length_idleEvents_updateFrameBody s (length_of_fullFrameChecks hc)
  case partialFrame =>
    rintro x y w h a rfl
    have length : a.length = w.toNat * h.toNat / 8 := checkLength_eq_none.mp (firstFailed_eq_none.mp hc _ (by simp))
    simpa [sequenceOf] using length_idleEvents_updatePartialBody s x y w h length
  case colorFrame =>
    rintro a b rfl
    have passed := firstFailed_eq_none.mp hc
    have lengthA := length_of_checkPlane (buf := a) (passed _ (by simp))
    have lengthB := length_of_checkPlane (buf := b) (passed _ (by simp))
    simp [sequenceOf, updateColorBody, lengthA, lengthB]
  case oneBank =>
    rintro a (rfl | rfl) <;> simp [sequenceOf, length_of_fullFrameChecks hc]
  case display =>
    rintro rfl
    simpa [sequenceOf] using length_idleEvents_displayBody s
  case updateAndDisplay =>
    rintro a rfl
    rw [sequenceOf, idleEvents_append, idleEvents_append, List.length_append, List.length_append,
      length_idleEvents_updateFrameBody s (length_of_fullFrameChecks hc), length_idleEvents_displayBody]
    rfl
  case clear =>
    rintro rfl
    simpa [sequenceOf] using length_idleEvents_clearBody s
  case registers =>
    intro hr
    cases i with
    | setBackgroundColor _ | getBackgroundColor | getWidth | getHeight => rfl
    | _ => cases hr

end Sys2Proof.Machine
end

section
/-! O40 (spec/70_reset_and_hazards.md R287). A bus command's sequence has no poll in it; a RAM write has the one of its counters;
so what stands around the polls that an operation's body spells is free of them. -/

namespace Sys2Proof.Machine

/-! Stretches without a poll. -/

theorem Item.isPoll_iff (item : Item) : item.isPoll = true ↔ item = .startPoll ∨ item = .issue .pinGet := by
  cases item with
  | issue t => cases t <;> simp [Item.isPoll]
  | _ => simp [Item.isPoll]

theorem pollFree_iff {items : List Item} : pollFree items ↔ ∀ item ∈ items, item.isPoll = false := by
  refine ⟨fun ⟨noStart, noSample⟩ item hm => Bool.eq_false_iff.mpr fun hp => ?_, fun h => ⟨?_, ?_⟩⟩
  · obtain rfl | rfl := item.isPoll_iff.mp hp
    · exact noStart hm
    · exact noSample hm
  · exact fun hm => absurd (h _ hm) nofun
  · exact fun hm => absurd (h _ hm) nofun

@[simp] theorem pollFree_nil : pollFree [] := by simp [pollFree]

@[simp] theorem pollFree_cons {item : Item} {a : List Item} :
    pollFree (item :: a) ↔ item.isPoll = false ∧ pollFree a := by
  simp only [pollFree_iff, List.forall_mem_cons]

@[simp] theorem pollFree_append {a b : List Item} : pollFree (a ++ b) ↔ pollFree a ∧ pollFree b := by
  simp only [pollFree_iff, List.forall_mem_append]

theorem pollFree_optional {p : Prop} [Decidable p] {a : List Item} (h : pollFree a) : pollFree (if p then a else []) := by
  split
  · exact h
  · exact pollFree_nil

@[simp] theorem pollFree_sendCommand (op : Byte) : pollFree (sendCommand op) :=
  pollFree_iff.mpr fun _ h => isPoll_of_isFraming (isFraming_of_mem_frame h)

@[simp] theorem pollFree_sendCommandWithData (op : Byte) (bytes : List Byte) : pollFree (sendCommandWithData op bytes) :=
  pollFree_iff.mpr fun _ h => isPoll_of_isFraming (isFraming_of_mem_sendCommandWithData h)

/-- No bus command polls. -/
theorem pollFree_commandItems (c : Instr) : pollFree (commandItems c) := by
  cases c with
  | cmdSwReset | cmdMasterActivation => exact pollFree_sendCommand _
  | cmdSetRamXWindow _ _ | cmdSetRamYWindow _ _ | cmdSetRamXCounter _ | cmdSetRamYCounter _ =>
    exact pollFree_append.mpr ⟨pollFree_sendCommandWithData _ _, by simp [Item.isPoll]⟩
  | cmdDriverOutputControl _ _ _ _ | cmdDeepSleepMode _ | cmdDataEntryMode _ _ | cmdTemperatureSensor
  | cmdDisplayUpdateControl1 | cmdDisplayUpdateControl2 _ | cmdWriteRamBw _ | cmdWriteRamRed _ | cmdWriteLut _
  | cmdBorderWaveform _ => exact pollFree_sendCommandWithData _ _
  | _ => exact pollFree_nil

theorem sequenceOf_command {c : Instr} (hb : c.isBus = true) (s : State) : sequenceOf c s = commandItems c := by
  cases c with
  | init | sleep | setLut _ | waitIdle | updateFrame _ | updatePartialFrame _ _ _ _ _ | updateColorFrame _ _
  | updateAchromaticFrame _ | updateChromaticFrame _ | displayFrame | updateAndDisplayFrame _ | clearFrame
  | setBackgroundColor _ | getBackgroundColor | getWidth | getHeight => cases hb
  | _ => rfl

theorem pollFree_sequenceOf_command {c : Instr} (hb : c.isBus = true) (s : State) : pollFree (sequenceOf c s) :=
  (sequenceOf_command hb s).symm ▸ pollFree_commandItems c

theorem pollFree_setRamArea (r : Rect) : pollFree (setRamArea r) :=
  pollFree_append.mpr ⟨pollFree_commandItems (.cmdSetRamXWindow _ _), pollFree_commandItems (.cmdSetRamYWindow _ _)⟩

theorem pollFree_sequenceOf_setLut (m : RefreshMode) (s : State) : pollFree (sequenceOf (.setLut m) s) := by
  simp only [sequenceOf]
  split
  · exact pollFree_append.mpr ⟨pollFree_commandItems (.cmdWriteLut _), by simp [Item.isPoll]⟩
  · simp [Item.isPoll]

/-! RAM writes. -/

/-- A RAM write polls before its counters, whichever bank its data goes to. -/
theorem polledWrite_openWindow (r : Rect) {data : List Item} (h : pollFree data) : polledWrite (openWindow r ++ data) :=
  ⟨setRamArea r, xUnits r.startX, BitVec.ofNat 16 r.startY, data, pollFree_setRamArea r, h, by
    simp only [openWindow, setRamAddressCounters, commandItems, List.append_assoc]⟩

theorem polledWrite_ramWriteA (r : Rect) (bytes : List Byte) : polledWrite (ramWriteA r bytes) :=
  polledWrite_openWindow r (pollFree_commandItems (.cmdWriteRamBw bytes))

theorem polledWrite_ramWriteC (r : Rect) (bytes : List Byte) : polledWrite (ramWriteC r bytes) :=
  polledWrite_openWindow r (pollFree_commandItems (.cmdWriteRamRed bytes))

/-- The items are `n` RAM writes, one after another. -/
def PolledWrites (n : Nat) (items : List Item) : Prop :=
  ∃ writes : List (List Item), (∀ w ∈ writes, polledWrite w) ∧ writes.length = n ∧ items = writes.flatten

namespace PolledWrites

variable {n k : Nat} {a b : List Item}

theorem one (h : polledWrite a) : PolledWrites 1 a := ⟨[a], by simpa using h, rfl, by simp⟩

theorem append (ha : PolledWrites n a) (hb : PolledWrites k b) : PolledWrites (n + k) (a ++ b) := by
  obtain ⟨as, has, rfl, rfl⟩ := ha
  obtain ⟨bs, hbs, rfl, rfl⟩ := hb
  exact ⟨as ++ bs, List.forall_mem_append.mpr ⟨has, hbs⟩, List.length_append, List.flatten_append.symm⟩

/-- Writes that only one refresh mode does. -/
theorem append_optional {p : Prop} [Decidable p] (ha : PolledWrites n a) (hb : PolledWrites k b) :
    PolledWrites (if p then n + k else n) (a ++ if p then b else []) := by
  split
  · exact ha.append hb
  · rwa [List.append_nil]

theorem updateFrameBody (bufA : List Byte) (s : State) :
    PolledWrites (if s.refresh = .fullRefresh then 2 else 1) (updateFrameBody bufA s) :=
  (one (polledWrite_ramWriteA _ _)).append_optional (one (polledWrite_ramWriteC _ _))

theorem updatePartialBody (x y w h : Half) (bufA : List Byte) (s : State) :
    PolledWrites (if s.refresh = .fullRefresh then 2 else 1) (updatePartialBody x y w h bufA s) :=
  (one (polledWrite_ramWriteA _ _)).append_optional (one (polledWrite_ramWriteC _ _))

theorem updateColorBody (bufA bufB : List Byte) (s : State) : PolledWrites 2 (updateColorBody bufA bufB s) :=
  (one (polledWrite_ramWriteA _ _)).append (one (polledWrite_ramWriteC _ _))

theorem clearPass (s : State) : PolledWrites 2 (clearPass s) :=
  (one (polledWrite_ramWriteA _ _)).append (one (polledWrite_ramWriteC _ _))

theorem clearBody (s : State) : PolledWrites (if s.refresh = .fullRefresh then 4 else 2) (clearBody s) :=
  (clearPass s).append_optional (clearPass s)

/-- The writes of an operation, with what follows them in its sequence. -/
theorem exists_followed (h : PolledWrites n a) (rest : List Item) :
    ∃ writes : List (List Item), (∀ w ∈ writes, polledWrite w) ∧ writes.length = n
      ∧ a ++ rest = writes.flatten ++ rest := by
  obtain ⟨writes, hw, hn, rfl⟩ := h
  exact ⟨writes, hw, hn, rfl⟩

end PolledWrites

/-! The operations. -/

/-- The two display operations poll after master activation only. -/
theorem displayBody_polls (s : State) :
    ∃ before, pollFree before ∧ displayBody s = before ++ commandItems .cmdMasterActivation ++ waitUntilIdle :=
  ⟨_, pollFree_optional (pollFree_append.mpr ⟨by simp [Item.isPoll], pollFree_commandItems (.cmdDisplayUpdateControl2 _)⟩), rfl⟩

theorem pollFree_sleepActivation (s : State) : pollFree (sleepActivation s) :=
  pollFree_optional (by simp [displayUpdateControl2, masterActivation, Item.isPoll])

/-- INIT's four polls: after the reset pulse, after the software reset, before the counters and at the end. -/
theorem init_polls (s : State) : ∃ setup rest, pollFree setup ∧ pollFree rest ∧ sequenceOf .init s =
    hardwareReset s.params.resetLowUs s.params.resetHighUs ++ waitUntilIdle ++ commandItems .cmdSwReset ++ waitUntilIdle
      ++ setup ++ waitUntilIdle ++ commandItems (.cmdSetRamXCounter 0#8) ++ commandItems (.cmdSetRamYCounter 0#16) ++ rest
      ++ waitUntilIdle ++ [.setPower .ready, .finish] := by
  refine ⟨driverOutputControl (BitVec.ofNat 16 (panelHeight - 1)) true true true ++ dataEntryMode 3#2 false
      ++ setRamArea fullPanel,
    borderControl s.params.initBorder ++ temperatureSensor
      ++ (if (profileOf s.rev).initDuc1 then displayUpdateControl1 else []), ?_, ?_, ?_⟩
  · simp [driverOutputControl, dataEntryMode, pollFree_setRamArea]
  · simp only [borderControl, temperatureSensor, pollFree_append, pollFree_sendCommandWithData, true_and]
    exact pollFree_optional (pollFree_commandItems .cmdDisplayUpdateControl1)
  · simp only [sequenceOf, initBody, setRamAddressCounters, List.append_assoc]
    rfl

/-- Settles O40: each operation's sequence, cut at the polls that its body spells. -/
theorem pollPoints : Obligations.PollPoints := by
  unfold Obligations.PollPoints
  intro s i
  cases i with
  | init => exact init_polls s
  | sleep =>
    refine ⟨sleepActivation s ++ deepSleepMode s.params.deepSleepCode ++ [.setPower .sleeping, .finish], ?_, ?_⟩
    · simp [pollFree_sleepActivation, deepSleepMode, Item.isPoll]
    · simp only [sequenceOf, sleepBody, List.append_assoc]
  | waitIdle => rfl
  | setLut m => exact pollFree_sequenceOf_setLut m s
  | updateFrame a => exact (PolledWrites.updateFrameBody a s).exists_followed _
  | updatePartialFrame x y w h a => exact (PolledWrites.updatePartialBody x y w h a s).exists_followed _
  | updateColorFrame a b => exact (PolledWrites.updateColorBody a b s).exists_followed _
  | updateAchromaticFrame a => exact ⟨_, polledWrite_ramWriteA _ _, rfl⟩
  | updateChromaticFrame a => exact ⟨_, polledWrite_ramWriteC _ _, rfl⟩
  | displayFrame =>
    obtain ⟨before, hfree, hbody⟩ := displayBody_polls s
    exact ⟨before, hfree, congrArg (· ++ [Item.finish]) hbody⟩
  | updateAndDisplayFrame a =>
    obtain ⟨writes, hwrites, hcount, hflat⟩ := PolledWrites.updateFrameBody a s
    obtain ⟨before, hfree, hbody⟩ := displayBody_polls s
    refine ⟨writes, before, hwrites, hfree, hcount, ?_⟩
    simp only [sequenceOf, hflat, hbody, List.append_assoc]
  | clearFrame => exact (PolledWrites.clearBody s).exists_followed _
  | setBackgroundColor _ | getBackgroundColor | getWidth | getHeight => exact pollFree_nil
  | _ => exact pollFree_sequenceOf_command rfl s

end Sys2Proof.Machine
end
